-- ==== Sys2Proof/Word.lean ====
section
/-! DEFINITION. The words of the frame codec: bytes, command words, 64-bit data ports, frames
(spec 00_scope.md R8, R10; 10_state.md R20, R21, R27). -/

namespace Sys2Proof

/-- One byte of a frame: 8 bits, bit 0 the least significant (R9, R10). -/
abbrev Byte := BitVec 8

/-- The command word `CMD` of the command port (R27, R72). -/
abbrev CmdWord := BitVec 16

/-- A 64-bit data port, `DIN64` or `DOUT64` (R27). -/
abbrev DataWord := BitVec 64

/-- One frame: exactly 8 bytes, numbered 0 to 7 (R8, R10, R44). -/
abbrev Frame := Vector Byte 8

end Sys2Proof
end

