-- ==== Sys2Proof/Machine/Operands.lean ====
section
/-! DEFINITION. The operand forms of a command: the legal sets of the immediate (spec 60_exceptions.md
R303) and the lanes of the 64-bit data ports (20_memory.md R42, 30_encoding.md R73). -/

namespace Sys2Proof.Machine

/-- Legal `IMM8` of MF_SET_DEST: the destination variant codes (R105, R303). -/
def legalDest (imm : Byte) : Bool := imm == 0 || imm == 1 || imm == 32

/-- Legal `IMM8` of the setters of a one-bit field (R303). -/
def legalFlag (imm : Byte) : Bool := imm.toNat ≤ 1

/-- Legal `IMM8` of MF_SET_TYPE and CF_SET_QUERY (R109, R161, R303). -/
def legalType (imm : Byte) : Bool := imm.toNat ≤ 3

/-- Legal `IMM8` of SET_MODE (R205, R303). -/
def legalMode (imm : Byte) : Bool := imm.toNat ≤ 5

/-- Legal `IMM8` of SET_FAN (R207, R303). -/
def legalFan (imm : Byte) : Bool := imm.toNat ≤ 5

/-- Legal `IMM8` of SET_TEMP (R211, R303; 90_conflicts.md C3). -/
def legalTemp (imm : Byte) : Bool := imm.toNat ≤ 127

/-- Legal `IMM8` of SET_MAGIC (R215, R303). -/
def legalMagic (imm : Byte) : Bool := imm.toNat ≤ 15

/-- Lane `i` of a 64-bit port: bits `8i+7..8i` (R42). -/
def lane (d : DataWord) (i : Nat) : Byte := d.extractLsb' (8 * i) 8

/-- The frame whose byte `i` is lane `i` (R42). -/
def frameOfLanes (d : DataWord) : Frame := Vector.ofFn fun i => lane d i.val

/-- The 64-bit port value of a frame, `b0 + b1·2^8 + … + b7·2^56`: byte `i` is on lane `i` (R42). -/
def lanesOfFrame (f : Frame) : DataWord :=
  BitVec.ofNat 64 (f[0].toNat + f[1].toNat * 2 ^ 8 + f[2].toNat * 2 ^ 16 + f[3].toNat * 2 ^ 24 +
    f[4].toNat * 2 ^ 32 + f[5].toNat * 2 ^ 40 + f[6].toNat * 2 ^ 48 + f[7].toNat * 2 ^ 56)

/-- The 5-byte payload of a frame on lanes 0 to 4, lanes 5 to 7 zero (R42, R102, R153). -/
def lanesOfPayload (f : Frame) : DataWord :=
  lanesOfFrame #v[f[3], f[4], f[5], f[6], f[7], 0, 0, 0]

end Sys2Proof.Machine
end

