-- ==== Sys2Proof/Syntax.lean ====
section
/-! DEFINITION. The 42 commands of the opcode map (spec 30_encoding.md R74), one constructor per row of
spec/opcode_table.json. -/

namespace Sys2Proof

/-- The frame a status-view command operates on, selected by the T bit (R73, R200). -/
inductive Target where
  /-- T = 0, assembler operand `m`: the master frame `MF`. -/
  | master
  /-- T = 1, assembler operand `c`: the controller frame `CF`. -/
  | controller
deriving DecidableEq, Repr

/-- A decoded command. `imm` is the unsigned `IMM8` of the word, whatever its value: an immediate
outside the command's legal set still decodes (R76). `DIN64` is no part of the command word. -/
inductive Instr where
  -- Master-frame commands, R100 to R109
  | mfLoad
  | mfRead
  | mfGetPayload
  | mfEq
  | mfGetDest
  | mfSetDest (imm : Byte)
  | mfGetUnknown
  | mfSetUnknown (imm : Byte)
  | mfGetType
  | mfSetType (imm : Byte)
  -- Controller-frame commands, R150 to R161
  | cfDefault
  | cfLoad
  | cfRead
  | cfGetPayload
  | cfSetPayload
  | cfEq
  | cfGetLogin
  | cfSetLogin (imm : Byte)
  | cfGetWrite
  | cfSetWrite (imm : Byte)
  | cfGetQuery
  | cfSetQuery (imm : Byte)
  -- Status-view commands, R202 to R221
  | getEnabled (t : Target)
  | setEnabled (t : Target) (imm : Byte)
  | getMode (t : Target)
  | setMode (t : Target) (imm : Byte)
  | getFan (t : Target)
  | setFan (t : Target) (imm : Byte)
  | getError (t : Target)
  | setError (t : Target) (imm : Byte)
  | getTemp (t : Target)
  | setTemp (t : Target) (imm : Byte)
  | getEconomy (t : Target)
  | setEconomy (t : Target) (imm : Byte)
  | getMagic (t : Target)
  | setMagic (t : Target) (imm : Byte)
  | getSwing (t : Target)
  | setSwing (t : Target) (imm : Byte)
  | getSwingStep (t : Target)
  | setSwingStep (t : Target) (imm : Byte)
  | getPresent (t : Target)
  | setPresent (t : Target) (imm : Byte)
deriving DecidableEq, Repr

end Sys2Proof
end

