-- ==== Sys2Proof/WellFormed.lean ====
section
/-! DEFINITION. Well-formed commands: the immediate lies in the command's legal set (spec 60_exceptions.md
R303). A command that is not well-formed has an encoding and decodes; it ends with ILLEGAL_OPERAND. -/

namespace Sys2Proof

open Machine

/-- The immediate operand of a command is legal; a command without one is always well-formed (R303:
"No other command can raise it"). -/
def Instr.wellFormed : Instr → Bool
  | .mfLoad | .mfRead | .mfGetPayload | .mfEq | .mfGetDest | .mfGetUnknown | .mfGetType => true
  | .mfSetDest imm => legalDest imm
  | .mfSetUnknown imm => legalFlag imm
  | .mfSetType imm => legalType imm
  | .cfDefault | .cfLoad | .cfRead | .cfGetPayload | .cfSetPayload | .cfEq => true
  | .cfGetLogin | .cfGetWrite | .cfGetQuery => true
  | .cfSetLogin imm => legalFlag imm
  | .cfSetWrite imm => legalFlag imm
  | .cfSetQuery imm => legalType imm
  | .getEnabled _ | .getMode _ | .getFan _ | .getError _ | .getTemp _ => true
  | .getEconomy _ | .getMagic _ | .getSwing _ | .getSwingStep _ | .getPresent _ => true
  | .setEnabled _ imm => legalFlag imm
  | .setMode _ imm => legalMode imm
  | .setFan _ imm => legalFan imm
  | .setError _ imm => legalFlag imm
  | .setTemp _ imm => legalTemp imm
  | .setEconomy _ imm => legalFlag imm
  | .setMagic _ imm => legalMagic imm
  | .setSwing _ imm => legalFlag imm
  | .setSwingStep _ imm => legalFlag imm
  | .setPresent _ imm => legalFlag imm

end Sys2Proof
end

