-- ==== Sys2Proof/Decode.lean ====
section
/-! DEFINITION. The command encoding (spec 30_encoding.md R72 to R77): fields of the command word, the opcode
map, the decoder, the encoder, and the rows of the opcode table. -/

namespace Sys2Proof

/-- Field `OP` of the command word, bits 5:0 (R72). -/
def opField (w : CmdWord) : BitVec 6 := w.extractLsb' 0 6
/-- Field `RSV`, bit 6 (R72). -/
def rsvField (w : CmdWord) : Bool := w.getLsbD 6
/-- Field `T`, bit 7 (R72). -/
def tField (w : CmdWord) : Bool := w.getLsbD 7
/-- Field `IMM8`, bits 15:8 (R72, R73). -/
def immField (w : CmdWord) : Byte := w.extractLsb' 8 8

/-- `F = (T = 0 ? MF : CF)` (R73). -/
def targetOf (t : Bool) : Target := if t then .controller else .master

/-- The T bit of a target (R72). -/
def targetBit : Target → Bool
  | .master => false
  | .controller => true

/-- The four shapes of an opcode-table row (R75), each with the command it encodes. -/
inductive Shape where
  /-- Frame command, no immediate: T = 0 and IMM8 = 0. -/
  | frame (i : Instr)
  /-- Frame command with immediate: T = 0. -/
  | frameImm (f : Byte → Instr)
  /-- Status-view getter: IMM8 = 0. -/
  | viewGet (f : Target → Instr)
  /-- Status-view setter. -/
  | viewSet (f : Target → Byte → Instr)

/-- The opcode map of R74. -/
def shapeOf : Nat → Option Shape
  | 0x01 => some (.frame .mfLoad)
  | 0x02 => some (.frame .mfRead)
  | 0x03 => some (.frame .mfGetPayload)
  | 0x04 => some (.frame .mfEq)
  | 0x05 => some (.frame .mfGetDest)
  | 0x06 => some (.frameImm .mfSetDest)
  | 0x07 => some (.frame .mfGetUnknown)
  | 0x08 => some (.frameImm .mfSetUnknown)
  | 0x09 => some (.frame .mfGetType)
  | 0x0A => some (.frameImm .mfSetType)
  | 0x10 => some (.frame .cfDefault)
  | 0x11 => some (.frame .cfLoad)
  | 0x12 => some (.frame .cfRead)
  | 0x13 => some (.frame .cfGetPayload)
  | 0x14 => some (.frame .cfSetPayload)
  | 0x15 => some (.frame .cfEq)
  | 0x16 => some (.frame .cfGetLogin)
  | 0x17 => some (.frameImm .cfSetLogin)
  | 0x18 => some (.frame .cfGetWrite)
  | 0x19 => some (.frameImm .cfSetWrite)
  | 0x1A => some (.frame .cfGetQuery)
  | 0x1B => some (.frameImm .cfSetQuery)
  | 0x20 => some (.viewGet .getEnabled)
  | 0x21 => some (.viewSet .setEnabled)
  | 0x22 => some (.viewGet .getMode)
  | 0x23 => some (.viewSet .setMode)
  | 0x24 => some (.viewGet .getFan)
  | 0x25 => some (.viewSet .setFan)
  | 0x26 => some (.viewGet .getError)
  | 0x27 => some (.viewSet .setError)
  | 0x28 => some (.viewGet .getTemp)
  | 0x29 => some (.viewSet .setTemp)
  | 0x2A => some (.viewGet .getEconomy)
  | 0x2B => some (.viewSet .setEconomy)
  | 0x2C => some (.viewGet .getMagic)
  | 0x2D => some (.viewSet .setMagic)
  | 0x2E => some (.viewGet .getSwing)
  | 0x2F => some (.viewSet .setSwing)
  | 0x30 => some (.viewGet .getSwingStep)
  | 0x31 => some (.viewSet .setSwingStep)
  | 0x32 => some (.viewGet .getPresent)
  | 0x33 => some (.viewSet .setPresent)
  | _ => none

/-- Why a command word is illegal (R76 (a) to (d)). Each of them ends the command with
ILLEGAL_COMMAND (R302). -/
inductive IllegalWord where
  /-- (a) OP is unassigned. -/
  | unassignedOp
  /-- (b) RSV = 1. -/
  | reservedBit
  /-- (c) T = 1 in a frame command. -/
  | targetBitInFrameCommand
  /-- (d) IMM8 ≠ 0 in a command that takes no immediate. -/
  | immediateNotTaken
deriving DecidableEq, Repr

/-- The decoder of R75, total on all 65 536 command words. -/
def decode (w : CmdWord) : Except IllegalWord Instr :=
  if rsvField w then .error .reservedBit
  else
    match shapeOf (opField w).toNat with
    | none => .error .unassignedOp
    | some (.frame i) =>
      if tField w then .error .targetBitInFrameCommand
      else if immField w = 0 then .ok i else .error .immediateNotTaken
    | some (.frameImm f) =>
      if tField w then .error .targetBitInFrameCommand else .ok (f (immField w))
    | some (.viewGet f) =>
      if immField w = 0 then .ok (f (targetOf (tField w))) else .error .immediateNotTaken
    | some (.viewSet f) => .ok (f (targetOf (tField w)) (immField w))

/-- The command word with `IMM8` in bits 15:8, `T` in bit 7, `OP` in bits 5:0 and RSV = 0 (R72). -/
def cmdWord (imm : Byte) (t : Bool) (op : BitVec 6) : CmdWord :=
  BitVec.ofNat 16 (imm.toNat * 2 ^ 8 + t.toNat * 2 ^ 7 + op.toNat)

/-- The encoder: the command word of each command (R72, R74, R75). -/
def encode : Instr → CmdWord
  | .mfLoad => cmdWord 0 false 0x01
  | .mfRead => cmdWord 0 false 0x02
  | .mfGetPayload => cmdWord 0 false 0x03
  | .mfEq => cmdWord 0 false 0x04
  | .mfGetDest => cmdWord 0 false 0x05
  | .mfSetDest imm => cmdWord imm false 0x06
  | .mfGetUnknown => cmdWord 0 false 0x07
  | .mfSetUnknown imm => cmdWord imm false 0x08
  | .mfGetType => cmdWord 0 false 0x09
  | .mfSetType imm => cmdWord imm false 0x0A
  | .cfDefault => cmdWord 0 false 0x10
  | .cfLoad => cmdWord 0 false 0x11
  | .cfRead => cmdWord 0 false 0x12
  | .cfGetPayload => cmdWord 0 false 0x13
  | .cfSetPayload => cmdWord 0 false 0x14
  | .cfEq => cmdWord 0 false 0x15
  | .cfGetLogin => cmdWord 0 false 0x16
  | .cfSetLogin imm => cmdWord imm false 0x17
  | .cfGetWrite => cmdWord 0 false 0x18
  | .cfSetWrite imm => cmdWord imm false 0x19
  | .cfGetQuery => cmdWord 0 false 0x1A
  | .cfSetQuery imm => cmdWord imm false 0x1B
  | .getEnabled t => cmdWord 0 (targetBit t) 0x20
  | .setEnabled t imm => cmdWord imm (targetBit t) 0x21
  | .getMode t => cmdWord 0 (targetBit t) 0x22
  | .setMode t imm => cmdWord imm (targetBit t) 0x23
  | .getFan t => cmdWord 0 (targetBit t) 0x24
  | .setFan t imm => cmdWord imm (targetBit t) 0x25
  | .getError t => cmdWord 0 (targetBit t) 0x26
  | .setError t imm => cmdWord imm (targetBit t) 0x27
  | .getTemp t => cmdWord 0 (targetBit t) 0x28
  | .setTemp t imm => cmdWord imm (targetBit t) 0x29
  | .getEconomy t => cmdWord 0 (targetBit t) 0x2A
  | .setEconomy t imm => cmdWord imm (targetBit t) 0x2B
  | .getMagic t => cmdWord 0 (targetBit t) 0x2C
  | .setMagic t imm => cmdWord imm (targetBit t) 0x2D
  | .getSwing t => cmdWord 0 (targetBit t) 0x2E
  | .setSwing t imm => cmdWord imm (targetBit t) 0x2F
  | .getSwingStep t => cmdWord 0 (targetBit t) 0x30
  | .setSwingStep t imm => cmdWord imm (targetBit t) 0x31
  | .getPresent t => cmdWord 0 (targetBit t) 0x32
  | .setPresent t imm => cmdWord imm (targetBit t) 0x33

/-- The command read from a word numbered as spec/opcode_table.json numbers its bits. A command is
exactly one 16-bit word (R77), so a longer instruction is none of this block's. -/
def decodeTableWord (nbits w : Nat) : Option Instr :=
  if nbits ≤ 16 then
    match decode (BitVec.ofNat 16 (w % 2 ^ nbits)) with
    | .ok i => some i
    | .error _ => none
  else none

/-- A row of spec/opcode_table.json. -/
structure OpcodeRow where
  mnemonic : String
  mask : CmdWord
  value : CmdWord
deriving DecidableEq, Repr

/-- The word `w` selects the row: `(w & mask) = match` (R75). -/
def OpcodeRow.selects (r : OpcodeRow) (w : CmdWord) : Bool := w &&& r.mask == r.value

/-- Rows of the master-frame commands (R74, R100 to R109). -/
def masterRows : List OpcodeRow := [
  ⟨"MF_LOAD", 0xFFFF, 0x0001⟩, ⟨"MF_READ", 0xFFFF, 0x0002⟩, ⟨"MF_GET_PAYLOAD", 0xFFFF, 0x0003⟩,
  ⟨"MF_EQ", 0xFFFF, 0x0004⟩, ⟨"MF_GET_DEST", 0xFFFF, 0x0005⟩, ⟨"MF_SET_DEST", 0x00FF, 0x0006⟩,
  ⟨"MF_GET_UNKNOWN", 0xFFFF, 0x0007⟩, ⟨"MF_SET_UNKNOWN", 0x00FF, 0x0008⟩,
  ⟨"MF_GET_TYPE", 0xFFFF, 0x0009⟩, ⟨"MF_SET_TYPE", 0x00FF, 0x000A⟩]

/-- Rows of the controller-frame commands (R74, R150 to R161). -/
def controllerRows : List OpcodeRow := [
  ⟨"CF_DEFAULT", 0xFFFF, 0x0010⟩, ⟨"CF_LOAD", 0xFFFF, 0x0011⟩, ⟨"CF_READ", 0xFFFF, 0x0012⟩,
  ⟨"CF_GET_PAYLOAD", 0xFFFF, 0x0013⟩, ⟨"CF_SET_PAYLOAD", 0xFFFF, 0x0014⟩, ⟨"CF_EQ", 0xFFFF, 0x0015⟩,
  ⟨"CF_GET_LOGIN", 0xFFFF, 0x0016⟩, ⟨"CF_SET_LOGIN", 0x00FF, 0x0017⟩,
  ⟨"CF_GET_WRITE", 0xFFFF, 0x0018⟩, ⟨"CF_SET_WRITE", 0x00FF, 0x0019⟩,
  ⟨"CF_GET_QUERY", 0xFFFF, 0x001A⟩, ⟨"CF_SET_QUERY", 0x00FF, 0x001B⟩]

/-- Rows of the status-view commands (R74, R202 to R221). -/
def viewRows : List OpcodeRow := [
  ⟨"GET_ENABLED", 0xFF7F, 0x0020⟩, ⟨"SET_ENABLED", 0x007F, 0x0021⟩,
  ⟨"GET_MODE", 0xFF7F, 0x0022⟩, ⟨"SET_MODE", 0x007F, 0x0023⟩,
  ⟨"GET_FAN", 0xFF7F, 0x0024⟩, ⟨"SET_FAN", 0x007F, 0x0025⟩,
  ⟨"GET_ERROR", 0xFF7F, 0x0026⟩, ⟨"SET_ERROR", 0x007F, 0x0027⟩,
  ⟨"GET_TEMP", 0xFF7F, 0x0028⟩, ⟨"SET_TEMP", 0x007F, 0x0029⟩,
  ⟨"GET_ECONOMY", 0xFF7F, 0x002A⟩, ⟨"SET_ECONOMY", 0x007F, 0x002B⟩,
  ⟨"GET_MAGIC", 0xFF7F, 0x002C⟩, ⟨"SET_MAGIC", 0x007F, 0x002D⟩,
  ⟨"GET_SWING", 0xFF7F, 0x002E⟩, ⟨"SET_SWING", 0x007F, 0x002F⟩,
  ⟨"GET_SWING_STEP", 0xFF7F, 0x0030⟩, ⟨"SET_SWING_STEP", 0x007F, 0x0031⟩,
  ⟨"GET_PRESENT", 0xFF7F, 0x0032⟩, ⟨"SET_PRESENT", 0x007F, 0x0033⟩]

/-- The opcode table (spec/opcode_table.json, R75). -/
def opcodeRows : List OpcodeRow := masterRows ++ controllerRows ++ viewRows

/-- The mnemonic of a command, as the opcode table spells it (R74). -/
def Instr.mnemonic : Instr → String
  | .mfLoad => "MF_LOAD"
  | .mfRead => "MF_READ"
  | .mfGetPayload => "MF_GET_PAYLOAD"
  | .mfEq => "MF_EQ"
  | .mfGetDest => "MF_GET_DEST"
  | .mfSetDest _ => "MF_SET_DEST"
  | .mfGetUnknown => "MF_GET_UNKNOWN"
  | .mfSetUnknown _ => "MF_SET_UNKNOWN"
  | .mfGetType => "MF_GET_TYPE"
  | .mfSetType _ => "MF_SET_TYPE"
  | .cfDefault => "CF_DEFAULT"
  | .cfLoad => "CF_LOAD"
  | .cfRead => "CF_READ"
  | .cfGetPayload => "CF_GET_PAYLOAD"
  | .cfSetPayload => "CF_SET_PAYLOAD"
  | .cfEq => "CF_EQ"
  | .cfGetLogin => "CF_GET_LOGIN"
  | .cfSetLogin _ => "CF_SET_LOGIN"
  | .cfGetWrite => "CF_GET_WRITE"
  | .cfSetWrite _ => "CF_SET_WRITE"
  | .cfGetQuery => "CF_GET_QUERY"
  | .cfSetQuery _ => "CF_SET_QUERY"
  | .getEnabled _ => "GET_ENABLED"
  | .setEnabled _ _ => "SET_ENABLED"
  | .getMode _ => "GET_MODE"
  | .setMode _ _ => "SET_MODE"
  | .getFan _ => "GET_FAN"
  | .setFan _ _ => "SET_FAN"
  | .getError _ => "GET_ERROR"
  | .setError _ _ => "SET_ERROR"
  | .getTemp _ => "GET_TEMP"
  | .setTemp _ _ => "SET_TEMP"
  | .getEconomy _ => "GET_ECONOMY"
  | .setEconomy _ _ => "SET_ECONOMY"
  | .getMagic _ => "GET_MAGIC"
  | .setMagic _ _ => "SET_MAGIC"
  | .getSwing _ => "GET_SWING"
  | .setSwing _ _ => "SET_SWING"
  | .getSwingStep _ => "GET_SWING_STEP"
  | .setSwingStep _ _ => "SET_SWING_STEP"
  | .getPresent _ => "GET_PRESENT"
  | .setPresent _ _ => "SET_PRESENT"

end Sys2Proof
end

