-- ==== Sys2Proof/Machine/Enums.lean ====
section
/-! DEFINITION. The enumerations of the wire format and their decoding (spec 30_encoding.md R65 to R68).
Every decode is total: a pattern outside the enumeration gives UNKNOWN (R71). A variant goes out on D8 as its
variant code (00_scope.md R12; 92_eei_decisions.md D26). -/

namespace Sys2Proof.Machine

/-- Operating modes (R65). -/
inductive Mode where
  | unknown | fan | dry | cool | heat | auto
deriving DecidableEq, Repr

/-- Fan speeds (R66). -/
inductive Fan where
  | auto | low | medium | high | max | unknown
deriving DecidableEq, Repr

/-- Destination addresses (R67). -/
inductive Destination where
  | unknown | other | wiredController
deriving DecidableEq, Repr

/-- Register types, also of the query-register selector (R68). -/
inductive RegisterType where
  | status | error | login | unknown
deriving DecidableEq, Repr

/-- Variant codes of Mode (R65). -/
def modeCode : Mode → Byte
  | .unknown => 0 | .fan => 1 | .dry => 2 | .cool => 3 | .heat => 4 | .auto => 5

/-- `decode_mode` of R65. -/
def decodeMode (raw : Byte) : Mode :=
  match raw.toNat with
  | 1 => .fan
  | 2 => .dry
  | 3 => .cool
  | 4 => .heat
  | 5 => .auto
  | _ => .unknown

/-- Variant codes of Fan (R66). -/
def fanCode : Fan → Byte
  | .auto => 0 | .low => 1 | .medium => 2 | .high => 3 | .max => 4 | .unknown => 5

/-- `decode_fan` of R66. -/
def decodeFan (raw : Byte) : Fan :=
  match raw.toNat with
  | 0 => .auto
  | 1 => .low
  | 2 => .medium
  | 3 => .high
  | 4 => .max
  | _ => .unknown

/-- Variant codes of the destination (R67). -/
def destinationCode : Destination → Byte
  | .unknown => 0 | .other => 1 | .wiredController => 32

/-- `decode_dest` of R67. -/
def decodeDestination (raw : Byte) : Destination :=
  match raw.toNat with
  | 1 => .other
  | 32 => .wiredController
  | _ => .unknown

/-- Variant codes of the register type (R68). -/
def registerTypeCode : RegisterType → Byte
  | .status => 0 | .error => 1 | .login => 2 | .unknown => 3

/-- `decode_type` of R68. The field has two bits, so the last case is raw 3. -/
def decodeRegisterType (raw : Byte) : RegisterType :=
  match raw.toNat with
  | 0 => .status
  | 1 => .error
  | 2 => .login
  | _ => .unknown

end Sys2Proof.Machine
end

