-- ==== Sys2Proof/Machine/Flags.lean ====
section
/-! DEFINITION. The one flag of the block, the output `EQ` (spec 10_state.md R32): full-byte comparison of a
frame with `DIN64` (40_master_frame.md R103, 41_controller_frame.md R155). -/

namespace Sys2Proof.Machine

/-- `EQ`: for all i in 0..7, byte `i` of the frame equals lane `i` of `DIN64` (R103, R155). -/
def eqFlag (f : Frame) (din : DataWord) : Bool := f == frameOfLanes din

end Sys2Proof.Machine
end

