-- ==== Sys2Proof/Config.lean ====
section
/-! DEFINITION. The implementation parameters (spec 00_scope.md R6) and which assignments are legal (R7).
Their default values stand in Machine/Layout.lean. -/

namespace Sys2Proof

/-- The named parameters of R6 that the source leaves open. They are plain numbers, so that an
assignment R7 forbids can be written down and refused. The byte that holds each field is no
parameter (R7). -/
structure Params where
  /-- `DEST_LO`: lowest bit of the 7-bit destination field of master byte 1. -/
  destLo : Nat
  /-- `UNK_BIT`: bit position of the unknown bit of master byte 1. -/
  unkBit : Nat
  /-- `TYPE_LO`: lowest bit of the 2-bit register type of master byte 2. -/
  typeLo : Nat
  /-- `LOGIN_BIT`: bit position of the login bit of controller byte 1. -/
  loginBit : Nat
  /-- `QUERY_LO`: lowest bit of the 2-bit query-register selector of controller byte 2. -/
  queryLo : Nat
  /-- `WRITE_BIT`: bit position of the write bit of controller byte 2. -/
  writeBit : Nat
  /-- `CONTROLLER_ADDRESS`: controller-frame byte 0 of the canonical default. -/
  controllerAddress : Nat
deriving DecidableEq, Repr

/-- R7 condition 1: every field lies inside its byte. -/
def Params.insideBytes (p : Params) : Bool :=
  p.destLo + 7 ≤ 8 && p.typeLo + 2 ≤ 8 && p.queryLo + 2 ≤ 8 &&
    p.unkBit ≤ 7 && p.loginBit ≤ 7 && p.writeBit ≤ 7

/-- R7 condition 2: the destination and the unknown bit do not overlap. -/
def Params.destUnknownApart (p : Params) : Bool :=
  p.unkBit < p.destLo || p.destLo + 7 ≤ p.unkBit

/-- R7 condition 3: the query-register selector and the write bit do not overlap. -/
def Params.queryWriteApart (p : Params) : Bool :=
  p.writeBit < p.queryLo || p.queryLo + 2 ≤ p.writeBit

/-- R7 condition 4: the controller address is a byte. -/
def Params.addressFits (p : Params) : Bool := p.controllerAddress ≤ 255

/-- A legal parameter assignment (R7): all four conditions. -/
def Params.legal (p : Params) : Bool :=
  p.insideBytes && p.destUnknownApart && p.queryWriteApart && p.addressFits

end Sys2Proof
end

