-- ==== Sys2Proof/Machine/Layout.lean ====
section
/-! DEFINITION. Where the named fields of a frame lie (spec 30_encoding.md R60 to R64) and the bit-field
primitives `get` and `put` that read and write them (00_scope.md R9, R11). -/

namespace Sys2Proof.Machine

/-- The place of a field: the frame byte, the lowest bit and the width. -/
structure FieldPos where
  byte : Fin 8
  lo : Nat
  width : Nat
deriving DecidableEq, Repr

/-- The default parameter assignment of R6. PRESUMED: R6 marks these values "from general knowledge,
not in source" (93_implementation_defined.md G1 to G7; log entries 1 and 2). -/
def defaultParams : Params where
  destLo := 0
  unkBit := 7
  typeLo := 4
  loginBit := 5
  queryLo := 4
  writeBit := 3
  controllerAddress := 0x20

/-- Destination: master byte 1, 7 bits at `DEST_LO` (R62). -/
def destField (p : Params) : FieldPos := ⟨1, p.destLo, 7⟩
/-- Unknown bit: master byte 1, bit `UNK_BIT` (R62). -/
def unknownField (p : Params) : FieldPos := ⟨1, p.unkBit, 1⟩
/-- Register type: master byte 2, 2 bits at `TYPE_LO` (R62). -/
def typeField (p : Params) : FieldPos := ⟨2, p.typeLo, 2⟩
/-- Login bit: controller byte 1, bit `LOGIN_BIT` (R63). -/
def loginField (p : Params) : FieldPos := ⟨1, p.loginBit, 1⟩
/-- Query-register selector: controller byte 2, 2 bits at `QUERY_LO` (R63). -/
def queryField (p : Params) : FieldPos := ⟨2, p.queryLo, 2⟩
/-- Write bit: controller byte 2, bit `WRITE_BIT` (R63). -/
def writeField (p : Params) : FieldPos := ⟨2, p.writeBit, 1⟩

/-- Frame byte that holds payload byte `k` (R10). -/
def payloadByte (k : Fin 5) : Fin 8 := ⟨3 + k.val, by omega⟩

/-- Enabled: payload byte 0, bit 0 (R64). -/
def enabledField : FieldPos := ⟨payloadByte 0, 0, 1⟩
/-- Mode: payload byte 0, bits 3:1 (R64). -/
def modeField : FieldPos := ⟨payloadByte 0, 1, 3⟩
/-- Fan: payload byte 0, bits 6:4 (R64). -/
def fanField : FieldPos := ⟨payloadByte 0, 4, 3⟩
/-- Error: payload byte 0, bit 7 (R64). -/
def errorField : FieldPos := ⟨payloadByte 0, 7, 1⟩
/-- Temperature: payload byte 1, bits 6:0 (R64). -/
def tempField : FieldPos := ⟨payloadByte 1, 0, 7⟩
/-- Economy: payload byte 1, bit 7 (R64). -/
def economyField : FieldPos := ⟨payloadByte 1, 7, 1⟩
/-- Update-magic: payload byte 2, bits 7:4 (R64). -/
def magicField : FieldPos := ⟨payloadByte 2, 4, 4⟩
/-- Swing: payload byte 2, bit 2 (R64). -/
def swingField : FieldPos := ⟨payloadByte 2, 2, 1⟩
/-- Swing-step: payload byte 2, bit 1 (R64). -/
def swingStepField : FieldPos := ⟨payloadByte 2, 1, 1⟩
/-- Controller-present: payload byte 3, bit 0 (R64). -/
def presentField : FieldPos := ⟨payloadByte 3, 0, 1⟩

/-- `(1 << w) - 1`, the mask of a `w`-bit value (R9, R11). -/
def lowMask (w : Nat) : Byte := ((1 : Byte) <<< w) - 1

/-- `get(F, i, lo, w)` of R11, as an 8-bit value: `(byte >> lo) & (2^w - 1)` (R9), zero-extended. -/
def getField (fp : FieldPos) (f : Frame) : Byte := (f[fp.byte] >>> fp.lo) &&& lowMask fp.width

/-- The byte that `put` of R11 stores: bits `lo+w-1..lo` replaced by `v`, the other bits kept. -/
def putBits (b : Byte) (lo w : Nat) (v : Byte) : Byte :=
  (b &&& ~~~(lowMask w <<< lo)) ||| ((v &&& lowMask w) <<< lo)

/-- `put(F, i, lo, w, v)` of R11: the field of byte `i` is replaced (92_eei_decisions.md D30), every
other byte kept. -/
def putField (fp : FieldPos) (v : Byte) (f : Frame) : Frame :=
  f.set fp.byte (putBits f[fp.byte] fp.lo fp.width v)

/-- The canonical default controller frame (R70): byte 0 is `CONTROLLER_ADDRESS`, all else zero. -/
def canonicalDefault (p : Params) : Frame :=
  #v[BitVec.ofNat 8 p.controllerAddress, 0, 0, 0, 0, 0, 0, 0]

/-- `CF[3+k] <- DIN64[k]` for k in 0..4 (R154): bytes 0 to 2 kept; the five payload bytes given. -/
def putPayload (p0 p1 p2 p3 p4 : Byte) (f : Frame) : Frame :=
  #v[f[0], f[1], f[2], p0, p1, p2, p3, p4]

end Sys2Proof.Machine
end

