-- ==== Sys2Proof/Machine/State.lean ====
section
/-! DEFINITION. The state of the frame codec (spec 10_state.md R20 to R24), the command port's inputs and
outputs as data (R27), the reset state (R33; 70_reset_and_hazards.md R330), and the reasons a step can stop. -/

namespace Sys2Proof.Machine

/-- The 2-bit `STATUS` of a response (60_exceptions.md R300); its codes are `statusCode`. -/
inductive Status where
  /-- The command ran its pseudocode to the end. -/
  | ok
  /-- The command word matches no row of the opcode table (R302). -/
  | illegalCommand
  /-- The word decodes but `IMM8` is outside the command's legal set (R303). -/
  | illegalOperand
  /-- The command reads or edits a frame register whose validity bit is 0 (R304). -/
  | noFrame
deriving DecidableEq, Repr

/-- The outputs of one command (R27). An output that a command's rule does not write is 0 (R29), which
is the value each field has when it is left out. -/
structure Response where
  status : Status := .ok
  d8 : Byte := 0
  dout64 : DataWord := 0
  eq : Bool := false
deriving DecidableEq, Repr

/-- What the host can do to the block: present one command with its data (R27, R28), or raise the
reset event, which is "separate from any command" (R330). -/
inductive Input where
  | command (cmd : CmdWord) (din : DataWord)
  | reset
deriving DecidableEq, Repr

/-- The machine. `mf` and `cf` are the spec's whole state (R24); a frame register is absent exactly
while its validity bit is 0 (R22, R23; R330: "A model represents them as absent, not as zero"). The
parameters are fixed at build time (R6, R332). The last three fields are the MODEL's own: the command
port as data, so that one step is a function of the state alone (log entries 4, 5, 8). -/
structure State where
  /-- The implementation parameters (R6). No step writes them. -/
  params : Params
  /-- The master-frame register `MF` with `MF_VALID` (R20, R22). -/
  mf : Option Frame
  /-- The controller-frame register `CF` with `CF_VALID` (R21, R23). -/
  cf : Option Frame
  /-- `DIN64` as the current command sees it (R27). DESIGN CHOICE, log entry 8. -/
  din64 : DataWord
  /-- The outputs of the step just made; none where it was no command (R29, R32). DESIGN CHOICE, log
  entry 5. -/
  response : Option Response
  /-- What the host presents from now on, the next input first (R30, R50). DESIGN CHOICE, log entry 4. -/
  inputs : List Input
deriving DecidableEq, Repr

/-- The validity bit `MF_VALID` (R22). -/
def State.mfValid (s : State) : Bool := s.mf.isSome

/-- The validity bit `CF_VALID` (R23). -/
def State.cfValid (s : State) : Bool := s.cf.isSome

/-- The faults of the machine: none. The block has no trap (R307); every error is the status of a
response, after which the block goes on (R301). No constructor is safe: nothing stops that the spec
lets go on. -/
inductive Fault
deriving DecidableEq, Repr

/-- Why a step has no meaning. -/
inductive Refusal where
  /-- Raised by an arm of `exec` for a command that has no meaning yet; safe. No arm raises it: every
  command of the opcode table has its meaning. -/
  | notModelled (mnemonic : String)
  /-- Raised by `step` while the parameter assignment breaks a condition of R7 ("A model must refuse a
  parameter assignment that breaks a condition"); safe. -/
  | illegalParameters
deriving DecidableEq, Repr

/-- The machine right after reset (R33, R330): both validity bits 0 and no frame bytes; the default
parameters of R6; nothing presented yet, no response (R32). `din64` and `inputs` are the model's choice
(log entries 4 and 8). -/
def State.reset : State where
  params := defaultParams
  mf := none
  cf := none
  din64 := 0
  response := none
  inputs := []

end Sys2Proof.Machine
end

