-- ==== Sys2Proof/Machine/Ops.lean ====
section
/-! DEFINITION. The shared operations of the commands: answering, raising an error status (spec
00_scope.md R11 `raise`; 60_exceptions.md R301), reaching a frame register, and reading, editing and
constructing one; and what a step does outside a command. -/

namespace Sys2Proof.Machine

/-- What a meaning answers. -/
abbrev Result := Host.Outcome State Fault Refusal

/-- The codes of `STATUS` (R300). -/
def statusCode : Status → BitVec 2
  | .ok => 0
  | .illegalCommand => 1
  | .illegalOperand => 2
  | .noFrame => 3

/-- The outputs become `r`, replacing those of the command before (R29). -/
def State.answer (s : State) (r : Response) : State := { s with response := some r }

/-- The frame register a target names (R73, R200), absent while its validity bit is 0. -/
def State.frameOf (s : State) : Target → Option Frame
  | .master => s.mf
  | .controller => s.cf

/-- A target's register holds the constructed frame `f`, its validity bit is 1. -/
def State.withFrame (s : State) (t : Target) (f : Frame) : State :=
  match t with
  | .master => { s with mf := some f }
  | .controller => { s with cf := some f }

/-- `raise S` of R11: the command ends with status `S`, no state is written and every other output is
zero (R301). It is the block's whole error mechanism: no trap is taken and nothing is saved (R307). -/
def raise (st : Status) (s : State) : Result := .next (s.answer { status := st })

/-- The check of R304 that comes before a command reads or edits a frame: NO_FRAME while the register's
validity bit is 0, else the command goes on with the frame. -/
def needFrame (t : Target) (s : State) (k : Frame → Result) : Result :=
  match s.frameOf t with
  | none => raise .noFrame s
  | some f => k f

/-- The operand check of R303, which comes before the frame check (R305). -/
def checkOperand (legal : Bool) (s : State) (k : Result) : Result :=
  if legal then k else raise .illegalOperand s

/-- A command that constructs a frame (R100, R150, R151): it runs whatever the validity bit was. -/
def construct (t : Target) (f : Frame) (s : State) : Result :=
  .next ((s.withFrame t f).answer {})

/-- A command that reads a frame and answers on `D8`; no state changes (R49). -/
def readD8 (t : Target) (value : Frame → Byte) (s : State) : Result :=
  needFrame t s fun f => .next (s.answer { d8 := value f })

/-- A command that reads a frame and answers on `DOUT64`; no state changes (R49). -/
def readDout (t : Target) (value : Frame → DataWord) (s : State) : Result :=
  needFrame t s fun f => .next (s.answer { dout64 := value f })

/-- A command that compares a frame with `DIN64` and answers on `EQ`; no state changes (R49). -/
def compareFrame (t : Target) (s : State) : Result :=
  needFrame t s fun f => .next (s.answer { eq := eqFlag f s.din64 })

/-- A command that edits a frame in place (R47), every output but STATUS zero. -/
def editFrame (t : Target) (edit : Frame → Frame) (s : State) : Result :=
  needFrame t s fun f => .next ((s.withFrame t (edit f)).answer {})

/-- A field setter: operand check (R303), frame check (R304), then `put` of R11. -/
def setField (t : Target) (fp : FieldPos) (legal : Bool) (imm : Byte) (s : State) : Result :=
  checkOperand legal s (editFrame t (putField fp imm) s)

/-- A field getter without decoding: `zext_8(get(F, i, lo, w))`. -/
def getRaw (t : Target) (fp : FieldPos) (s : State) : Result := readD8 t (getField fp) s

/-- A command arrives: the port shows its `DIN64`, and the inputs after it remain (R27, R30). -/
def present (din : DataWord) (rest : List Input) (s : State) : State :=
  { s with din64 := din, inputs := rest }

/-- The reset event of R330: both validity bits are cleared and the frames hold no value. The outputs
have no value after it (R32); the parameters are fixed at build time (R332). -/
def takeReset (rest : List Input) (s : State) : Result :=
  .next { s with mf := none, cf := none, response := none, inputs := rest }

/-- No command is presented: the block's state stays as it was (R311) and the outputs have no value
(R32). DESIGN CHOICE, log entry 6. -/
def idle (s : State) : Result := .next { s with response := none }

end Sys2Proof.Machine
end

