-- ==== Sys2Proof/Machine/ControllerFrame.lean ====
section
/-! DEFINITION. The twelve controller-frame commands (spec 41_controller_frame.md R150 to R161), one definition each. -/

namespace Sys2Proof.Machine

/-- CF_DEFAULT (R150): construct the canonical default controller frame (R70). -/
def execCfDefault (s : State) : Result :=
  construct .controller (canonicalDefault s.params) s

/-- CF_LOAD (R151): construct the controller frame from the 8 lanes of `DIN64`. -/
def execCfLoad (s : State) : Result :=
  construct .controller (frameOfLanes s.din64) s

/-- CF_READ (R152): the whole controller frame on `DOUT64`. -/
def execCfRead (s : State) : Result :=
  readDout .controller lanesOfFrame s

/-- CF_GET_PAYLOAD (R153): the payload on lanes 0 to 4 of `DOUT64`. -/
def execCfGetPayload (s : State) : Result :=
  readDout .controller lanesOfPayload s

/-- CF_SET_PAYLOAD (R154): write the payload from lanes 0 to 4 of `DIN64`; lanes 5 to 7 are ignored. -/
def execCfSetPayload (s : State) : Result :=
  editFrame .controller
    (putPayload (lane s.din64 0) (lane s.din64 1) (lane s.din64 2) (lane s.din64 3) (lane s.din64 4)) s

/-- CF_EQ (R155): full-byte comparison with `DIN64`. -/
def execCfEq (s : State) : Result :=
  compareFrame .controller s

/-- CF_GET_LOGIN (R156): the login bit on `D8`. -/
def execCfGetLogin (s : State) : Result :=
  getRaw .controller (loginField s.params) s

/-- CF_SET_LOGIN (R157): write the login bit. -/
def execCfSetLogin (imm : Byte) (s : State) : Result :=
  setField .controller (loginField s.params) (legalFlag imm) imm s

/-- CF_GET_WRITE (R158): the write bit on `D8`. -/
def execCfGetWrite (s : State) : Result :=
  getRaw .controller (writeField s.params) s

/-- CF_SET_WRITE (R159): write the write bit. -/
def execCfSetWrite (imm : Byte) (s : State) : Result :=
  setField .controller (writeField s.params) (legalFlag imm) imm s

/-- CF_GET_QUERY (R160): the decoded query-register selector on `D8`. -/
def execCfGetQuery (s : State) : Result :=
  readD8 .controller
    (fun f => registerTypeCode (decodeRegisterType (getField (queryField s.params) f))) s

/-- CF_SET_QUERY (R161): write the query-register selector. -/
def execCfSetQuery (imm : Byte) (s : State) : Result :=
  setField .controller (queryField s.params) (legalType imm) imm s

end Sys2Proof.Machine
end

