-- ==== Sys2Proof/Machine/MasterFrame.lean ====
section
/-! DEFINITION. The ten master-frame commands (spec 40_master_frame.md R100 to R109), one definition each. -/

namespace Sys2Proof.Machine

/-- MF_LOAD (R100): construct the master frame from the 8 lanes of `DIN64`. -/
def execMfLoad (s : State) : Result :=
  construct .master (frameOfLanes s.din64) s

/-- MF_READ (R101): the whole master frame on `DOUT64`. -/
def execMfRead (s : State) : Result :=
  readDout .master lanesOfFrame s

/-- MF_GET_PAYLOAD (R102): the payload on lanes 0 to 4 of `DOUT64`. -/
def execMfGetPayload (s : State) : Result :=
  readDout .master lanesOfPayload s

/-- MF_EQ (R103): full-byte comparison with `DIN64`. -/
def execMfEq (s : State) : Result :=
  compareFrame .master s

/-- MF_GET_DEST (R104): the decoded destination on `D8`. -/
def execMfGetDest (s : State) : Result :=
  readD8 .master
    (fun f => destinationCode (decodeDestination (getField (destField s.params) f))) s

/-- MF_SET_DEST (R105): write the destination. -/
def execMfSetDest (imm : Byte) (s : State) : Result :=
  setField .master (destField s.params) (legalDest imm) imm s

/-- MF_GET_UNKNOWN (R106): the unknown bit on `D8`. -/
def execMfGetUnknown (s : State) : Result :=
  getRaw .master (unknownField s.params) s

/-- MF_SET_UNKNOWN (R107): write the unknown bit. -/
def execMfSetUnknown (imm : Byte) (s : State) : Result :=
  setField .master (unknownField s.params) (legalFlag imm) imm s

/-- MF_GET_TYPE (R108): the decoded register type on `D8`. -/
def execMfGetType (s : State) : Result :=
  readD8 .master
    (fun f => registerTypeCode (decodeRegisterType (getField (typeField s.params) f))) s

/-- MF_SET_TYPE (R109): write the register type. -/
def execMfSetType (imm : Byte) (s : State) : Result :=
  setField .master (typeField s.params) (legalType imm) imm s

end Sys2Proof.Machine
end

