-- ==== Sys2Proof/Machine/StatusView.lean ====
section
/-! DEFINITION. The twenty status-view commands (spec 42_status_view.md R200 to R221), one definition each. None of them
reads the register type or the query-register selector (R201). -/

namespace Sys2Proof.Machine

/-- GET_ENABLED (R202): Enabled on `D8`. -/
def execGetEnabled (t : Target) (s : State) : Result :=
  getRaw t enabledField s

/-- SET_ENABLED (R203): write Enabled. -/
def execSetEnabled (t : Target) (imm : Byte) (s : State) : Result :=
  setField t enabledField (legalFlag imm) imm s

/-- GET_MODE (R204): the decoded Mode on `D8`. -/
def execGetMode (t : Target) (s : State) : Result :=
  readD8 t (fun f => modeCode (decodeMode (getField modeField f))) s

/-- SET_MODE (R205): write Mode. -/
def execSetMode (t : Target) (imm : Byte) (s : State) : Result :=
  setField t modeField (legalMode imm) imm s

/-- GET_FAN (R206): the decoded Fan on `D8`. -/
def execGetFan (t : Target) (s : State) : Result :=
  readD8 t (fun f => fanCode (decodeFan (getField fanField f))) s

/-- SET_FAN (R207): write Fan. -/
def execSetFan (t : Target) (imm : Byte) (s : State) : Result :=
  setField t fanField (legalFan imm) imm s

/-- GET_ERROR (R208): Error on `D8`. -/
def execGetError (t : Target) (s : State) : Result :=
  getRaw t errorField s

/-- SET_ERROR (R209): write Error. -/
def execSetError (t : Target) (imm : Byte) (s : State) : Result :=
  setField t errorField (legalFlag imm) imm s

/-- GET_TEMP (R210): Temperature on `D8`. -/
def execGetTemp (t : Target) (s : State) : Result :=
  getRaw t tempField s

/-- SET_TEMP (R211): write Temperature. -/
def execSetTemp (t : Target) (imm : Byte) (s : State) : Result :=
  setField t tempField (legalTemp imm) imm s

/-- GET_ECONOMY (R212): Economy on `D8`. -/
def execGetEconomy (t : Target) (s : State) : Result :=
  getRaw t economyField s

/-- SET_ECONOMY (R213): write Economy. -/
def execSetEconomy (t : Target) (imm : Byte) (s : State) : Result :=
  setField t economyField (legalFlag imm) imm s

/-- GET_MAGIC (R214): Update-magic on `D8`. -/
def execGetMagic (t : Target) (s : State) : Result :=
  getRaw t magicField s

/-- SET_MAGIC (R215): write Update-magic. -/
def execSetMagic (t : Target) (imm : Byte) (s : State) : Result :=
  setField t magicField (legalMagic imm) imm s

/-- GET_SWING (R216): Swing on `D8`. -/
def execGetSwing (t : Target) (s : State) : Result :=
  getRaw t swingField s

/-- SET_SWING (R217): write Swing. -/
def execSetSwing (t : Target) (imm : Byte) (s : State) : Result :=
  setField t swingField (legalFlag imm) imm s

/-- GET_SWING_STEP (R218): Swing-step on `D8`. -/
def execGetSwingStep (t : Target) (s : State) : Result :=
  getRaw t swingStepField s

/-- SET_SWING_STEP (R219): write Swing-step. -/
def execSetSwingStep (t : Target) (imm : Byte) (s : State) : Result :=
  setField t swingStepField (legalFlag imm) imm s

/-- GET_PRESENT (R220): Controller-present on `D8`. -/
def execGetPresent (t : Target) (s : State) : Result :=
  getRaw t presentField s

/-- SET_PRESENT (R221): write Controller-present. -/
def execSetPresent (t : Target) (imm : Byte) (s : State) : Result :=
  setField t presentField (legalFlag imm) imm s

end Sys2Proof.Machine
end

