-- ==== Sys2Proof/Machine/Dispatch.lean ====
section
/-! DEFINITION. One arm per command of the opcode map (spec 30_encoding.md R74). -/

namespace Sys2Proof.Machine

def exec (i : Instr) (s : State) : Host.Outcome State Fault Refusal :=
  match i with
  | .mfLoad => Sys2Proof.Machine.execMfLoad s
  | .mfRead => Sys2Proof.Machine.execMfRead s
  | .mfGetPayload => Sys2Proof.Machine.execMfGetPayload s
  | .mfEq => Sys2Proof.Machine.execMfEq s
  | .mfGetDest => Sys2Proof.Machine.execMfGetDest s
  | .mfSetDest imm => Sys2Proof.Machine.execMfSetDest imm s
  | .mfGetUnknown => Sys2Proof.Machine.execMfGetUnknown s
  | .mfSetUnknown imm => Sys2Proof.Machine.execMfSetUnknown imm s
  | .mfGetType => Sys2Proof.Machine.execMfGetType s
  | .mfSetType imm => Sys2Proof.Machine.execMfSetType imm s
  | .cfDefault => Sys2Proof.Machine.execCfDefault s
  | .cfLoad => Sys2Proof.Machine.execCfLoad s
  | .cfRead => Sys2Proof.Machine.execCfRead s
  | .cfGetPayload => Sys2Proof.Machine.execCfGetPayload s
  | .cfSetPayload => Sys2Proof.Machine.execCfSetPayload s
  | .cfEq => Sys2Proof.Machine.execCfEq s
  | .cfGetLogin => Sys2Proof.Machine.execCfGetLogin s
  | .cfSetLogin imm => Sys2Proof.Machine.execCfSetLogin imm s
  | .cfGetWrite => Sys2Proof.Machine.execCfGetWrite s
  | .cfSetWrite imm => Sys2Proof.Machine.execCfSetWrite imm s
  | .cfGetQuery => Sys2Proof.Machine.execCfGetQuery s
  | .cfSetQuery imm => Sys2Proof.Machine.execCfSetQuery imm s
  | .getEnabled t => Sys2Proof.Machine.execGetEnabled t s
  | .setEnabled t imm => Sys2Proof.Machine.execSetEnabled t imm s
  | .getMode t => Sys2Proof.Machine.execGetMode t s
  | .setMode t imm => Sys2Proof.Machine.execSetMode t imm s
  | .getFan t => Sys2Proof.Machine.execGetFan t s
  | .setFan t imm => Sys2Proof.Machine.execSetFan t imm s
  | .getError t => Sys2Proof.Machine.execGetError t s
  | .setError t imm => Sys2Proof.Machine.execSetError t imm s
  | .getTemp t => Sys2Proof.Machine.execGetTemp t s
  | .setTemp t imm => Sys2Proof.Machine.execSetTemp t imm s
  | .getEconomy t => Sys2Proof.Machine.execGetEconomy t s
  | .setEconomy t imm => Sys2Proof.Machine.execSetEconomy t imm s
  | .getMagic t => Sys2Proof.Machine.execGetMagic t s
  | .setMagic t imm => Sys2Proof.Machine.execSetMagic t imm s
  | .getSwing t => Sys2Proof.Machine.execGetSwing t s
  | .setSwing t imm => Sys2Proof.Machine.execSetSwing t imm s
  | .getSwingStep t => Sys2Proof.Machine.execGetSwingStep t s
  | .setSwingStep t imm => Sys2Proof.Machine.execSetSwingStep t imm s
  | .getPresent t => Sys2Proof.Machine.execGetPresent t s
  | .setPresent t imm => Sys2Proof.Machine.execSetPresent t imm s

end Sys2Proof.Machine
end

