-- ==== Sys2Proof/Machine/Step.lean ====
section
/-! DEFINITION. One step of the block: the next input the host presents is taken (spec 10_state.md R28;
20_memory.md R46, R50). -/

namespace Sys2Proof.Machine

/-- The command word `w` is decoded (R75) and run as one atomic transaction (R46); a word that no row of
the opcode table matches ends with ILLEGAL_COMMAND (R302). -/
def runCommand (w : CmdWord) (s : State) : Host.Outcome State Fault Refusal :=
  match decode w with
  | .ok i => exec i s
  | .error _ => raise .illegalCommand s

/-- One step. An assignment of the parameters that R7 forbids is refused; otherwise the next input is
taken, in the order issued (R50): a command (R28), the reset event (R330), or nothing (R311). -/
def step (s : State) : Host.Outcome State Fault Refusal :=
  if s.params.legal then
    match s.inputs with
    | [] => idle s
    | .reset :: rest => takeReset rest s
    | .command w din :: rest => runCommand w (present din rest s)
  else .refused .illegalParameters

/-- The state in which the host presents the command word `w` next, with `DIN64` as it stands on the
port; what it was going to present comes after it. -/
def State.withFetchWord (s : State) (nbits w : Nat) : State :=
  { s with inputs := .command (BitVec.ofNat 16 (w % 2 ^ nbits)) s.din64 :: s.inputs }

end Sys2Proof.Machine
end

