-- ==== Sys2Proof/Machine/Assembler.lean ====
section
/-! DEFINITION. The assembler syntax (spec 30_encoding.md R78): one line of text to one command word with its
`DIN64`. There are no pseudo-instructions (R79). Conventions R78 leaves open: log entry 12. -/

namespace Sys2Proof.Machine

/-- Why a line is no command (R78 names no errors: DESIGN CHOICE, log entry 12). -/
inductive AsmError where
  /-- The line holds no command (blank, or a comment only). -/
  | empty
  | unknownMnemonic
  /-- The operands have none of the four shapes of R78, or not the command's. -/
  | operandShape
  | badTarget
  | badImmediate
  | badData
deriving DecidableEq, Repr

/-- A token: a word, a comma or a brace. -/
abbrev Token := List Char

/-- The opening brace of a data operand (its code point; no brace may stand in the text). -/
def openBrace : Char := Char.ofNat 0x7B
/-- The closing brace of a data operand. -/
def closeBrace : Char := Char.ofNat 0x7D

/-- "`;` starts a comment" (R78); it runs to the end of the text given (DESIGN CHOICE, log entry 12). -/
def stripComment : List Char → List Char
  | [] => []
  | c :: cs => if c == ';' then [] else c :: stripComment cs

/-- The tokens of a line; `cur` is the word read so far. DESIGN CHOICE, log entry 12: R78 does not say which
characters separate tokens. Space, tab, carriage return and line feed do and are dropped; a comma or a brace is
a token of its own. So the text is taken as one line, and a command broken over two lines reads as one. -/
def tokens (cur : Token) : List Char → List Token
  | [] => if cur.isEmpty then [] else [cur]
  | c :: cs =>
    if c == ' ' || c == '\t' || c == '\r' || c == '\n' then
      if cur.isEmpty then tokens [] cs else cur :: tokens [] cs
    else if c == ',' || c == openBrace || c == closeBrace then
      if cur.isEmpty then [c] :: tokens [] cs else cur :: [c] :: tokens [] cs
    else tokens (cur ++ [c]) cs

/-- The value of a hexadecimal digit, in either case (DESIGN CHOICE, log entry 12). -/
def hexDigit (c : Char) : Option Nat :=
  if '0' ≤ c && c ≤ '9' then some (c.toNat - 0x30)
  else if 'a' ≤ c && c ≤ 'f' then some (c.toNat - 0x57)
  else if 'A' ≤ c && c ≤ 'F' then some (c.toNat - 0x37)
  else none

/-- The number the digits write in a base of at most 16, continuing from `acc`. -/
def digitsFrom (base acc : Nat) : List Char → Option Nat
  | [] => some acc
  | c :: cs =>
    match hexDigit c with
    | some d => if d < base then digitsFrom base (base * acc + d) cs else none
    | none => none

/-- A decimal number or a `0x` hexadecimal number (R78), without a sign, leading zeros allowed (DESIGN CHOICE,
log entry 12). -/
def numeral : Token → Option Nat
  | '0' :: 'x' :: ds => if ds.isEmpty then none else digitsFrom 16 0 ds
  | ds => if ds.isEmpty then none else digitsFrom 10 0 ds

/-- The enumeration names of R78 for the field a setter writes, each with its variant code. -/
def enumNames : Nat → List (String × Byte)
  | 0x06 => [("UNKNOWN", destinationCode .unknown), ("OTHER", destinationCode .other),
      ("WIRED_CONTROLLER", destinationCode .wiredController)]
  | 0x0A | 0x1B => [("STATUS", registerTypeCode .status), ("ERROR", registerTypeCode .error),
      ("LOGIN", registerTypeCode .login), ("UNKNOWN", registerTypeCode .unknown)]
  | 0x23 => [("UNKNOWN", modeCode .unknown), ("FAN", modeCode .fan), ("DRY", modeCode .dry),
      ("COOL", modeCode .cool), ("HEAT", modeCode .heat), ("AUTO", modeCode .auto)]
  | 0x25 => [("AUTO", fanCode .auto), ("LOW", fanCode .low), ("MEDIUM", fanCode .medium),
      ("HIGH", fanCode .high), ("MAX", fanCode .max), ("UNKNOWN", fanCode .unknown)]
  | _ => []

/-- The immediate operand of the command `op`: a number or a name of its field's enumeration (R78). A number
above 255 is an error (DESIGN CHOICE, log entry 12). -/
def asmImm (op : Nat) (tok : Token) : Except AsmError Byte :=
  match (enumNames op).find? (fun e => e.1.toList == tok) with
  | some e => .ok e.2
  | none =>
    match numeral tok with
    | some n => if n < 256 then .ok (BitVec.ofNat 8 n) else .error .badImmediate
    | none => .error .badImmediate

/-- The operand `t`: `m` is T = 0, `c` is T = 1 (R78). -/
def asmTarget : Token → Except AsmError Target
  | ['m'] => .ok .master
  | ['c'] => .ok .controller
  | _ => .error .badTarget

/-- How many bytes the data operand of the command `op` has; 0 where it takes none (R78). -/
def asmDataBytes : Nat → Nat
  | 0x01 | 0x04 | 0x11 | 0x15 => 8
  | 0x14 => 5
  | _ => 0

/-- The bytes of a data operand, two hexadecimal digits each (DESIGN CHOICE, log entry 12). -/
def asmBytes : List Token → Option (List Byte)
  | [] => some []
  | [hi, lo] :: rest =>
    match digitsFrom 16 0 [hi, lo], asmBytes rest with
    | some n, some bs => some (BitVec.ofNat 8 n :: bs)
    | _, _ => none
  | _ :: _ => none

/-- `DIN64` with the given bytes on the first lanes and 0 on the lanes after them (R78). -/
def dinOfBytes (bs : List Byte) : DataWord :=
  lanesOfFrame (Vector.ofFn fun i => bs.getD i.val 0)

/-- A data operand of `n` bytes in braces, frame byte 0 first (R78). -/
def asmData (n : Nat) : List Token → Except AsmError DataWord
  | [] => .error .operandShape
  | o :: rest =>
    if o == [openBrace] && rest.getLast? == some [closeBrace] then
      match asmBytes rest.dropLast with
      | some bs => if bs.length = n then .ok (dinOfBytes bs) else .error .badData
      | none => .error .badData
    else .error .operandShape

/-- The operands of the command `op`, in the shape its row of the opcode table has (R75, R78). `DIN64`
is 0 where the line gives no data. -/
def asmOperands (op : BitVec 6) (ops : List Token) : Except AsmError (CmdWord × DataWord) :=
  match shapeOf op.toNat with
  | none => .error .unknownMnemonic
  | some (.frame _) =>
    if asmDataBytes op.toNat = 0 then
      match ops with
      | [] => .ok (cmdWord 0 false op, 0)
      | _ :: _ => .error .operandShape
    else (asmData (asmDataBytes op.toNat) ops).map fun d => (cmdWord 0 false op, d)
  | some (.frameImm _) =>
    match ops with
    | [v] => (asmImm op.toNat v).map fun imm => (cmdWord imm false op, 0)
    | _ => .error .operandShape
  | some (.viewGet _) =>
    match ops with
    | [t] => (asmTarget t).map fun t => (cmdWord 0 (targetBit t) op, 0)
    | _ => .error .operandShape
  | some (.viewSet _) =>
    match ops with
    | [t, [','], v] =>
      match asmTarget t, asmImm op.toNat v with
      | .ok t, .ok imm => .ok (cmdWord imm (targetBit t) op, 0)
      | .error e, _ => .error e
      | _, .error e => .error e
    | _ => .error .operandShape

/-- The command word and the `DIN64` that one line of assembler text stands for (R78). -/
def assemble (line : String) : Except AsmError (CmdWord × DataWord) :=
  match tokens [] (stripComment line.toList) with
  | [] => .error .empty
  | m :: ops =>
    match opcodeRows.find? (fun r => r.mnemonic.toList == m) with
    | none => .error .unknownMnemonic
    | some r => asmOperands (opField r.value) ops

/-- What the host presents for one line of assembler text. -/
def inputOfLine (line : String) : Except AsmError Input :=
  (assemble line).map fun c => .command c.1 c.2

end Sys2Proof.Machine
end

