-- ==== Sys2Proof/Machine/Wire.lean ====
section
/-! DEFINITION. How a frame of the block corresponds to bytes on the line (spec 20_memory.md R41, R45, R54).
The transport is outside the block (00_scope.md R4 (a)): no command uses these functions, and the frame
registers hold de-obfuscated bytes only. -/

namespace Sys2Proof.Machine

/-- The bytes on the line for a frame: byte 0 first (R41), each complemented (R45). -/
def wireOfFrame (f : Frame) : List Byte := f.toList.map fun b => b ^^^ 0xFF

/-- The frame that bytes from the line carry: exactly 8 of them (R54: "A frame reaches the block complete
or not at all"), byte 0 first (R41), each complemented (R45). -/
def frameOfWire : List Byte → Option Frame
  | [b0, b1, b2, b3, b4, b5, b6, b7] =>
    some (#v[b0, b1, b2, b3, b4, b5, b6, b7].map fun b => b ^^^ 0xFF)
  | _ => none

end Sys2Proof.Machine
end

