-- ==== Sys2Proof/Safety.lean ====
section
/-! DEFINITION. The terms in which statements speak of the block: the spec's tables of fields (30_encoding.md
R62 to R64), legal sets (60_exceptions.md R303) and frames a command needs (R304), written a second time
from the spec, apart from the definitions the machine runs on; and the two invariants. -/

namespace Sys2Proof.Rules

open Machine

/-! ### What a command answers -/

/-- The command ends with this response, and the state is otherwise `s`. -/
def answers (s : State) (status : Status) (d8 : Byte) (dout64 : DataWord) (eq : Bool) : Result :=
  .next { s with response := some { status := status, d8 := d8, dout64 := dout64, eq := eq } }

/-- The number in bits `lo+w-1..lo` of a byte (R9). -/
def fieldNum (b : Byte) (lo w : Nat) : Nat := b.toNat / 2 ^ lo % 2 ^ w

/-- Lane `k` of a 64-bit port value: bits `8k+7..8k` (R42). -/
def laneOf (d : DataWord) (k : Fin 8) : Byte := d.extractLsb' (8 * k.val) 8

/-- `f'` is `f` with bits `lo+w-1..lo` of byte `i` replaced by `v` and every other bit of every byte
kept (R11 `put`). -/
def Replaced (i : Fin 8) (lo w : Nat) (v : Byte) (f f' : Frame) : Prop :=
  ∀ (k : Fin 8) (j : Nat), j < 8 →
    f'[k].getLsbD j = if k = i ∧ lo ≤ j ∧ j < lo + w then v.getLsbD (j - lo) else f[k].getLsbD j

/-! ### The shapes of the command rules -/

/-- The command's only word is `op` (a row with mask 0xFFFF). -/
def FrameWord (i : Instr) (op : CmdWord) : Prop := ∀ w, decode w = .ok i ↔ w = op

/-- The words of a frame setter: match `op`, mask 0x00FF, IMM8 in bits 15:8. -/
def ImmWord (i : Byte → Instr) (op : CmdWord) : Prop :=
  ∀ w imm, decode w = .ok (i imm) ↔ w &&& 0x00FF = op ∧ w.extractLsb' 8 8 = imm

/-- The words of a status-view getter: match `op`, mask 0xFF7F, T in bit 7. -/
def ViewGetWord (i : Target → Instr) (op : CmdWord) : Prop :=
  ∀ w t, decode w = .ok (i t) ↔ w &&& 0xFF7F = op ∧ (w.getLsbD 7 = true ↔ t = .controller)

/-- The words of a status-view setter: match `op`, mask 0x007F, T in bit 7, IMM8 in bits 15:8. -/
def ViewSetWord (i : Target → Byte → Instr) (op : CmdWord) : Prop :=
  ∀ w t imm, decode w = .ok (i t imm) ↔
    w &&& 0x007F = op ∧ (w.getLsbD 7 = true ↔ t = .controller) ∧ w.extractLsb' 8 8 = imm

/-- The command reads the target's frame: NO_FRAME with every output 0 while the frame is absent;
else OK with `D8` as given and the other outputs 0. Nothing but the response changes. -/
def Reads8 (i : Instr) (t : Target) (d8 : Params → Frame → Nat) : Prop :=
  ∀ s, (s.frameOf t = none → exec i s = answers s .noFrame 0 0 false) ∧
    ∀ f, s.frameOf t = some f → d8 s.params f < 256 ∧
      exec i s = answers s .ok (BitVec.ofNat 8 (d8 s.params f)) 0 false

/-- The command reads the target's frame onto `DOUT64`, lane by lane. -/
def Reads64 (i : Instr) (t : Target) (byteOnLane : Frame → Fin 8 → Byte) : Prop :=
  ∀ s, (s.frameOf t = none → exec i s = answers s .noFrame 0 0 false) ∧
    ∀ f, s.frameOf t = some f →
      ∃ d, (∀ k, laneOf d k = byteOnLane f k) ∧ exec i s = answers s .ok 0 d false

/-- The command compares all 8 bytes of the target's frame with the lanes of `DIN64`. -/
def Compares (i : Instr) (t : Target) : Prop :=
  ∀ s, (s.frameOf t = none → exec i s = answers s .noFrame 0 0 false) ∧
    ∀ f, s.frameOf t = some f →
      ((∀ k : Fin 8, f[k] = laneOf s.din64 k) → exec i s = answers s .ok 0 0 true) ∧
      ((∃ k : Fin 8, f[k] ≠ laneOf s.din64 k) → exec i s = answers s .ok 0 0 false)

/-- The command constructs the target's frame with the given bytes, whatever the register held. -/
def Constructs (i : Instr) (t : Target) (byte : State → Fin 8 → Byte) : Prop :=
  ∀ s, ∃ f, (∀ k : Fin 8, f[k] = byte s k) ∧ exec i s = answers (s.withFrame t f) .ok 0 0 false

/-- A field setter: ILLEGAL_OPERAND outside the legal set, then NO_FRAME while the frame is absent, else
OK with the field's bits replaced by the immediate. Nothing else of the state changes. -/
def Writes (i : Byte → Instr) (t : Target) (legal : Byte → Prop)
    (byte : Fin 8) (lo : Params → Nat) (width : Nat) : Prop :=
  ∀ s imm,
    (¬ legal imm → exec (i imm) s = answers s .illegalOperand 0 0 false) ∧
    (legal imm → s.frameOf t = none → exec (i imm) s = answers s .noFrame 0 0 false) ∧
    (legal imm → ∀ f, s.frameOf t = some f →
      ∃ f', Replaced byte (lo s.params) width imm f f' ∧
        exec (i imm) s = answers (s.withFrame t f') .ok 0 0 false)

/-! ### The named fields -/

/-- The named fields of the two frames (R62, R63, R64). -/
inductive Field where
  | destination | unknownBit | registerType
  | loginBit | querySelector | writeBit
  | enabled | mode | fan | error | temperature | economy | updateMagic | swing | swingStep | present
deriving DecidableEq, Repr

/-- The frame byte that holds a field (R62, R63, R64). -/
def Field.byte : Field → Fin 8
  | .destination | .unknownBit | .loginBit => 1
  | .registerType | .querySelector | .writeBit => 2
  | .enabled | .mode | .fan | .error => 3
  | .temperature | .economy => 4
  | .updateMagic | .swing | .swingStep => 5
  | .present => 6

/-- The lowest bit of a field in its byte (R62, R63, R64). -/
def Field.lo (p : Params) : Field → Nat
  | .destination => p.destLo
  | .unknownBit => p.unkBit
  | .registerType => p.typeLo
  | .loginBit => p.loginBit
  | .querySelector => p.queryLo
  | .writeBit => p.writeBit
  | .enabled => 0
  | .mode => 1
  | .fan => 4
  | .error => 7
  | .temperature => 0
  | .economy => 7
  | .updateMagic => 4
  | .swing => 2
  | .swingStep => 1
  | .present => 0

/-- The width of a field (R62, R63, R64). -/
def Field.width : Field → Nat
  | .destination | .temperature => 7
  | .registerType | .querySelector => 2
  | .mode | .fan => 3
  | .updateMagic => 4
  | .unknownBit | .loginBit | .writeBit | .enabled | .error | .economy | .swing | .swingStep
  | .present => 1

/-- The legal immediates of a field's setter (the table of R303). -/
def Field.Legal (imm : Byte) : Field → Prop
  | .destination => imm = 0 ∨ imm = 1 ∨ imm = 32
  | .registerType | .querySelector => imm.toNat ≤ 3
  | .mode | .fan => imm.toNat ≤ 5
  | .temperature => imm.toNat ≤ 127
  | .updateMagic => imm.toNat ≤ 15
  | .unknownBit | .loginBit | .writeBit | .enabled | .error | .economy | .swing | .swingStep
  | .present => imm.toNat ≤ 1

/-- The getter of a field; a header field has one frame, a payload field has the target's. -/
def Field.getter (t : Target) : Field → Instr
  | .destination => .mfGetDest
  | .unknownBit => .mfGetUnknown
  | .registerType => .mfGetType
  | .loginBit => .cfGetLogin
  | .querySelector => .cfGetQuery
  | .writeBit => .cfGetWrite
  | .enabled => .getEnabled t
  | .mode => .getMode t
  | .fan => .getFan t
  | .error => .getError t
  | .temperature => .getTemp t
  | .economy => .getEconomy t
  | .updateMagic => .getMagic t
  | .swing => .getSwing t
  | .swingStep => .getSwingStep t
  | .present => .getPresent t

/-- What a field setter sets: the frame, the field and the immediate; none for any other command. -/
def sets : Instr → Option (Target × Field × Byte)
  | .mfSetDest v => some (.master, .destination, v)
  | .mfSetUnknown v => some (.master, .unknownBit, v)
  | .mfSetType v => some (.master, .registerType, v)
  | .cfSetLogin v => some (.controller, .loginBit, v)
  | .cfSetWrite v => some (.controller, .writeBit, v)
  | .cfSetQuery v => some (.controller, .querySelector, v)
  | .setEnabled t v => some (t, .enabled, v)
  | .setMode t v => some (t, .mode, v)
  | .setFan t v => some (t, .fan, v)
  | .setError t v => some (t, .error, v)
  | .setTemp t v => some (t, .temperature, v)
  | .setEconomy t v => some (t, .economy, v)
  | .setMagic t v => some (t, .updateMagic, v)
  | .setSwing t v => some (t, .swing, v)
  | .setSwingStep t v => some (t, .swingStep, v)
  | .setPresent t v => some (t, .present, v)
  | .mfLoad | .mfRead | .mfGetPayload | .mfEq | .mfGetDest | .mfGetUnknown | .mfGetType => none
  | .cfDefault | .cfLoad | .cfRead | .cfGetPayload | .cfSetPayload | .cfEq => none
  | .cfGetLogin | .cfGetWrite | .cfGetQuery => none
  | .getEnabled _ | .getMode _ | .getFan _ | .getError _ | .getTemp _ => none
  | .getEconomy _ | .getMagic _ | .getSwing _ | .getSwingStep _ | .getPresent _ => none

/-- The frame a reading command reads: reads, payload reads, equality tests and getters (R49, R306);
none for a command that writes. -/
def readsOnly : Instr → Option Target
  | .mfRead | .mfGetPayload | .mfEq | .mfGetDest | .mfGetUnknown | .mfGetType => some .master
  | .cfRead | .cfGetPayload | .cfEq | .cfGetLogin | .cfGetWrite | .cfGetQuery => some .controller
  | .getEnabled t | .getMode t | .getFan t | .getError t | .getTemp t => some t
  | .getEconomy t | .getMagic t | .getSwing t | .getSwingStep t | .getPresent t => some t
  | .mfLoad | .cfDefault | .cfLoad | .cfSetPayload => none
  | .mfSetDest _ | .mfSetUnknown _ | .mfSetType _ => none
  | .cfSetLogin _ | .cfSetWrite _ | .cfSetQuery _ => none
  | .setEnabled _ _ | .setMode _ _ | .setFan _ _ | .setError _ _ | .setTemp _ _ => none
  | .setEconomy _ _ | .setMagic _ _ | .setSwing _ _ | .setSwingStep _ _ | .setPresent _ _ => none

/-- The frame a command needs constructed (R304): every command but the three constructors. -/
def needs (i : Instr) : Option Target :=
  match readsOnly i, sets i with
  | some t, _ => some t
  | none, some (t, _, _) => some t
  | none, none => if i = .cfSetPayload then some .controller else none

/-- The target of a status-view command (R200); none for a frame command. -/
def viewTarget : Instr → Option Target
  | .getEnabled t | .getMode t | .getFan t | .getError t | .getTemp t => some t
  | .getEconomy t | .getMagic t | .getSwing t | .getSwingStep t | .getPresent t => some t
  | .setEnabled t _ | .setMode t _ | .setFan t _ | .setError t _ | .setTemp t _ => some t
  | .setEconomy t _ | .setMagic t _ | .setSwing t _ | .setSwingStep t _ | .setPresent t _ => some t
  | .mfLoad | .mfRead | .mfGetPayload | .mfEq | .mfGetDest | .mfGetUnknown | .mfGetType => none
  | .mfSetDest _ | .mfSetUnknown _ | .mfSetType _ => none
  | .cfDefault | .cfLoad | .cfRead | .cfGetPayload | .cfSetPayload | .cfEq => none
  | .cfGetLogin | .cfGetWrite | .cfGetQuery => none
  | .cfSetLogin _ | .cfSetWrite _ | .cfSetQuery _ => none

/-- A command that touches neither the field `fld` of the frame `t` nor that frame as a whole (R223). -/
def Spares (t : Target) (fld : Field) (j : Instr) : Prop :=
  (∀ v, sets j ≠ some (t, fld, v)) ∧
  (t = .master → j ≠ .mfLoad) ∧
  (t = .controller → j ≠ .cfLoad ∧ j ≠ .cfDefault ∧ (3 ≤ fld.byte.val → j ≠ .cfSetPayload))

/-! ### Legal parameters -/

/-- The four conditions of R7 on a parameter assignment. -/
def LegalParams (p : Params) : Prop :=
  (p.destLo + 7 ≤ 8 ∧ p.typeLo + 2 ≤ 8 ∧ p.queryLo + 2 ≤ 8 ∧
    p.unkBit ≤ 7 ∧ p.loginBit ≤ 7 ∧ p.writeBit ≤ 7) ∧
  (∀ j, ¬ (p.destLo ≤ j ∧ j < p.destLo + 7 ∧ j = p.unkBit)) ∧
  (∀ j, ¬ (p.queryLo ≤ j ∧ j < p.queryLo + 2 ∧ j = p.writeBit)) ∧
  p.controllerAddress ≤ 255

/-! ### Invariants of the machine -/

/-- The outputs of a response: a status other than OK drives every other output to 0 (R301), and no
command writes two of `D8`, `DOUT64` and `EQ` (R29). -/
def CleanResponse (r : Response) : Prop :=
  (r.status ≠ .ok → r.d8 = 0 ∧ r.dout64 = 0 ∧ r.eq = false) ∧
  (r.d8 ≠ 0 → r.dout64 = 0 ∧ r.eq = false) ∧ (r.dout64 ≠ 0 → r.eq = false)

/-- A sound state: the parameters are legal (R7) and the outputs are clean (R29, R301). -/
def Sound (s : State) : Prop :=
  LegalParams s.params ∧ ∀ r, s.response = some r → CleanResponse r

/-- While the host presents no CF_LOAD, the header of a constructed controller frame is canonical: byte 0
is the controller address and every unnamed header bit is 0 (R162: written only by CF_DEFAULT and CF_LOAD). -/
def CanonicalHeader (s : State) : Prop :=
  (∀ din, Input.command 0x0011 din ∉ s.inputs) ∧
  ∀ f, s.cf = some f →
    f[0] = BitVec.ofNat 8 s.params.controllerAddress ∧
    (∀ j, j < 8 → j ≠ s.params.loginBit → f[1].getLsbD j = false) ∧
    (∀ j, j < 8 → ¬ (s.params.queryLo ≤ j ∧ j < s.params.queryLo + 2) → j ≠ s.params.writeBit →
      f[2].getLsbD j = false)

/-- The field `fld` of a constructed frame `t` holds the number `v`, and the host presents only commands
that spare the field (R223) and no reset event; the parameters are legal (R7), so that no other field
overlaps it. -/
def SparedFieldHolds (t : Target) (fld : Field) (v : Nat) (s : State) : Prop :=
  LegalParams s.params ∧ Input.reset ∉ s.inputs ∧
  (∀ w d, Input.command w d ∈ s.inputs → ∀ j, decode w = .ok j → Spares t fld j) ∧
  ∃ f, s.frameOf t = some f ∧ fieldNum f[fld.byte] (fld.lo s.params) fld.width = v

end Sys2Proof.Rules
end

