-- ==== Sys2Proof/Certificates/Slice0/Obligations.lean ====
section
/-! DEFINITION. The statements for the provers. -/

open Sys2Proof Sys2Proof.Machine Sys2Proof.Rules

/-- For every one of the 42 commands, with either target and every 8-bit immediate (legal or not), the
decoder reads the command from the word the encoder writes. (Derived from 30_encoding.md R72,
30_encoding.md R74, 30_encoding.md R75.) -/
def Obligations.DecodeOfEncodeIsTheCommand : Prop :=
  ∀ i : Instr, decode (encode i) = .ok i

/-- For every 16-bit word w and command i: if w decodes to i, then w is the word the encoder writes for i.
So each command has one word and no bit of a decoded word is dropped. (Derived from 30_encoding.md R72,
30_encoding.md R75, 30_encoding.md R77.) -/
def Obligations.EncodeOfDecodeIsTheWord : Prop :=
  ∀ (w : CmdWord) (i : Instr), decode w = .ok i → encode i = w

/-- For every word w: the decoder answers a command if and only if some row of the opcode table has (w &
mask) = match; the selecting row carries the mnemonic of the decoded command; and no two different rows
select the same word. (Derived from 30_encoding.md R74, 30_encoding.md R75.) -/
def Obligations.DecoderFollowsTheOpcodeTable : Prop :=
  ∀ w : CmdWord,
    ((∃ i, decode w = .ok i) ↔ ∃ r ∈ opcodeRows, w &&& r.mask = r.value) ∧
    (∀ i, decode w = .ok i → ∀ r ∈ opcodeRows, w &&& r.mask = r.value → r.mnemonic = i.mnemonic) ∧
    ∀ r ∈ opcodeRows, ∀ r' ∈ opcodeRows, w &&& r.mask = r.value → w &&& r'.mask = r'.value → r = r'

/-- 0000_0000_0000_0100 is MF_EQ, 0010_0000_0000_0110 is MF_SET_DEST 32, 0000_0010_0001_1011 is CF_SET_QUERY
2, 0000_0000_1010_0010 is GET_MODE c, 0000_0011_1010_0011 is SET_MODE c, 3 and 0001_1110_0010_1001 is
SET_TEMP m, 30. (Derived from 30_encoding.md R74, 30_encoding.md R78, 95_test_vectors.md 2.4.) -/
def Obligations.SampleWordsDecodeAsWritten : Prop :=
  decode 0b0000000000000100 = .ok .mfEq ∧ decode 0b0010000000000110 = .ok (.mfSetDest 32) ∧
    decode 0b0000001000011011 = .ok (.cfSetQuery 2) ∧
    decode 0b0000000010100010 = .ok (.getMode .controller) ∧
    decode 0b0000001110100011 = .ok (.setMode .controller 3) ∧
    decode 0b0001111000101001 = .ok (.setTemp .master 30)

/-- For every line of text: if it assembles to a command word w, then w decodes to a command, and the
mnemonic of that command is the first token of the line without its comment. So no assembled line ends
with ILLEGAL_COMMAND. Which characters separate tokens, that any text given (line feeds included) is
taken as one line, and that a comment runs to its end are the model's choices (log entry 12). (Derived
from 30_encoding.md R78, 30_encoding.md R79.) -/
def Obligations.AssembledLinesAreCommands : Prop :=
  ∀ (line : String) (w : CmdWord) (d : DataWord), assemble line = .ok (w, d) →
    ∃ i, decode w = .ok i ∧ (tokens [] (stripComment line.toList)).head? = some i.mnemonic.toList

/-- With legal parameters, if the next input is the command word w with data d and w decodes to i, then the
step is exec of i at the state in which DIN64 is d and that input is consumed. That inputs wait in a
list (log entry 4) and that DIN64 stands in the state (log entry 8) are the model's choices. (Derived
from 10_state.md R28, 30_encoding.md R75.) -/
def Obligations.StepRunsTheDecodedCommand : Prop :=
  ∀ (s : State) (w : CmdWord) (d : DataWord) (rest : List Input) (i : Instr),
    LegalParams s.params → s.inputs = .command w d :: rest → decode w = .ok i →
    step s = exec i { s with din64 := d, inputs := rest }

/-- With legal parameters, a step on any command word with any data answers a next state that holds a
response, has consumed exactly that input and keeps the parameters: no word, data or state makes the
block fault or refuse. That what the host presents is a list of which a step takes the first input (log
entry 4) and that the response is kept in the state (log entry 5) are the model's choices. (Derived from
10_state.md R28, 20_memory.md R46, 30_encoding.md R75.) -/
def Obligations.EveryCommandIsAnswered : Prop :=
  ∀ (s : State) (w : CmdWord) (d : DataWord) (rest : List Input),
    LegalParams s.params → s.inputs = .command w d :: rest →
    ∃ u r, step s = .next u ∧ u.response = some r ∧ u.inputs = rest ∧ u.params = s.params

/-- If the four conditions of R7 hold, every step answers a next state; if one fails, every step is refused.
Whatever the parameters, the header fields lie in the fixed bytes of R6. R7 asks for the refusal; that
every step is what refuses is the model's choice (log entry 10), and so is that a step without an input
answers a next state (log entry 6). (Derived from 00_scope.md R7, 00_scope.md R6.) -/
def Obligations.IllegalParametersAreRefused : Prop :=
  ∀ s : State,
    (LegalParams s.params → ∃ u, step s = .next u) ∧
    (¬ LegalParams s.params → step s = .refused .illegalParameters) ∧
    (destField s.params).byte = 1 ∧ (unknownField s.params).byte = 1 ∧ (typeField s.params).byte = 2 ∧
    (loginField s.params).byte = 1 ∧ (queryField s.params).byte = 2 ∧ (writeField s.params).byte = 2

/-- With legal parameters, a step on the reset event answers a next state with MF_VALID = 0, CF_VALID = 0,
no bytes in MF or CF and the same parameters (R332: they are fixed at build time); and the state after
reset has both bits 0 and no bytes. That the reset event comes as an input that a step takes, between
two commands, is the model's choice (log entry 7). (Derived from 70_reset_and_hazards.md R330,
70_reset_and_hazards.md R332, 10_state.md R33.) -/
def Obligations.ResetClearsBothFrames : Prop :=
  (∀ (s : State) (rest : List Input), LegalParams s.params → s.inputs = .reset :: rest →
      ∃ u, step s = .next u ∧ u.mfValid = false ∧ u.cfValid = false ∧ u.mf = none ∧ u.cf = none ∧
        u.params = s.params) ∧
    State.reset.mfValid = false ∧ State.reset.cfValid = false ∧
    State.reset.mf = none ∧ State.reset.cf = none

/-- With legal parameters and no input presented, a step answers a next state with the same frames,
parameters and DIN64 and no response. That an idle step is a step at all and clears the response is the
model's choice (log entries 5 and 6), and so is that DIN64 stands in the state (log entry 8). (Derived
from 60_exceptions.md R311, 10_state.md R32.) -/
def Obligations.IdleStepKeepsTheBlock : Prop :=
  ∀ s : State, LegalParams s.params → s.inputs = [] →
    step s = .next { s with response := none }

/-- If a step on the input x answers u, then with any other list of inputs after x the step answers u with
that list: what comes later changes nothing. R50 speaks of the order of commands. That what the host
presents is a list of which a step takes exactly the first input is the model's choice (log entry 4),
and so is that the reset event is such an input and keeps the inputs behind it (log entry 7). (Derived
from 20_memory.md R50.) -/
def Obligations.LaterInputsDoNotMatter : Prop :=
  ∀ (s u : State) (x : Input) (rest rest' : List Input),
    step { s with inputs := x :: rest } = .next u →
    u.inputs = rest ∧ step { s with inputs := x :: rest' } = .next { u with inputs := rest' }

/-- The step from a state is the same whatever response the state holds. That a response is kept in the
state at all is the model's choice (log entry 5). (Derived from 10_state.md R29, 10_state.md R32.) -/
def Obligations.EarlierResponseIsNeverRead : Prop :=
  ∀ (s : State) (r : Option Response), step { s with response := r } = step s

/-- Two states that differ only in DIN64 are taken by a command to two states that differ only in DIN64: for
every command but MF_LOAD, MF_EQ, CF_LOAD, CF_EQ and CF_SET_PAYLOAD whatever the lanes hold, and for
CF_SET_PAYLOAD if lanes 0 to 4 agree. That DIN64 stands in the state and stays there after the command
is the model's choice (log entry 8). (Derived from 30_encoding.md R73, 41_controller_frame.md R154.) -/
def Obligations.UnreadDataLanesAreIgnored : Prop :=
  ∀ (i : Instr) (s : State) (d e : DataWord),
    ((i ≠ .mfLoad ∧ i ≠ .mfEq ∧ i ≠ .cfLoad ∧ i ≠ .cfEq ∧ i ≠ .cfSetPayload) ∨
      (i = .cfSetPayload ∧ ∀ k : Fin 8, k.val < 5 → laneOf d k = laneOf e k)) →
    ∃ u, exec i { s with din64 := d } = .next u ∧ exec i { s with din64 := e } = .next { u with din64 := e }

/-- With legal parameters, the response to a command word has status ILLEGAL_COMMAND exactly when no row of
the opcode table has (w & mask) = match, and that is exactly when OP is unassigned, or bit 6 is 1, or
bit 7 is 1 with OP at most 0x1B, or bits 15:8 are not 0 in a command that takes no immediate. (States
R302.) -/
def Obligations.IllegalCommandExactlyWhenNoRowMatches : Prop :=
  ∀ (s : State) (w : CmdWord) (d : DataWord) (rest : List Input),
    LegalParams s.params → s.inputs = .command w d :: rest →
    ∃ u r, step s = .next u ∧ u.response = some r ∧
      (r.status = .illegalCommand ↔ ∀ row ∈ opcodeRows, w &&& row.mask ≠ row.value) ∧
      (r.status = .illegalCommand ↔
        (w.extractLsb' 0 6).toNat ∈ [0x00, 0x0B, 0x0C, 0x0D, 0x0E, 0x0F, 0x1C, 0x1D, 0x1E, 0x1F,
          0x34, 0x35, 0x36, 0x37, 0x38, 0x39, 0x3A, 0x3B, 0x3C, 0x3D, 0x3E, 0x3F] ∨
        w.getLsbD 6 = true ∨
        (w.getLsbD 7 = true ∧ (w.extractLsb' 0 6).toNat ≤ 0x1B) ∨
        (w.extractLsb' 8 8 ≠ 0 ∧ (w.extractLsb' 0 6).toNat ∈ [0x01, 0x02, 0x03, 0x04, 0x05, 0x07, 0x09,
          0x10, 0x11, 0x12, 0x13, 0x14, 0x15, 0x16, 0x18, 0x1A,
          0x20, 0x22, 0x24, 0x26, 0x28, 0x2A, 0x2C, 0x2E, 0x30, 0x32]))

/-- For every command in every state, the response has status ILLEGAL_OPERAND exactly when the command is a
field setter whose immediate is outside the legal set of R303; no other command can raise it, and DIN64
is never checked. (States R303.) -/
def Obligations.IllegalOperandExactlyOutsideTheLegalSet : Prop :=
  ∀ (i : Instr) (s : State), ∃ u r, exec i s = .next u ∧ u.response = some r ∧
    (r.status = .illegalOperand ↔ ∃ t fld v, sets i = some (t, fld, v) ∧ ¬ Field.Legal v fld)

/-- For every command in every state, the response has status NO_FRAME exactly when the operand is legal and
the command reads or edits a frame register whose validity bit is 0: every MF command but MF_LOAD and
every status-view command with T=0 for MF, every CF command but CF_DEFAULT and CF_LOAD and every status-
view command with T=1 for CF. (States R304.) -/
def Obligations.NoFrameExactlyWhenTheFrameIsAbsent : Prop :=
  ∀ (i : Instr) (s : State), ∃ u r, exec i s = .next u ∧ u.response = some r ∧
    (r.status = .noFrame ↔
      (∀ t fld v, sets i = some (t, fld, v) → Field.Legal v fld) ∧
        ((needs i = some .master ∧ s.mfValid = false) ∨ (needs i = some .controller ∧ s.cfValid = false)))

/-- With legal parameters, the one status of the response to a command word is ILLEGAL_COMMAND if the word
does not decode; else ILLEGAL_OPERAND if the immediate is outside the legal set, whatever the frames;
else NO_FRAME if the frame needed is absent; else OK. (States R305.) -/
def Obligations.ErrorsAreCheckedInOrder : Prop :=
  ∀ (s : State) (w : CmdWord) (d : DataWord) (rest : List Input),
    LegalParams s.params → s.inputs = .command w d :: rest →
    ∃ u r, step s = .next u ∧ u.response = some r ∧
      ((∀ i, decode w ≠ .ok i) → r.status = .illegalCommand) ∧
      (∀ i, decode w = .ok i →
        ((∃ t fld v, sets i = some (t, fld, v) ∧ ¬ Field.Legal v fld) → r.status = .illegalOperand) ∧
        ((∀ t fld v, sets i = some (t, fld, v) → Field.Legal v fld) →
          ((∃ t, needs i = some t ∧ s.frameOf t = none) → r.status = .noFrame) ∧
          ((∀ t, needs i = some t → s.frameOf t ≠ none) → r.status = .ok)))

/-- If a step on a command answers a response whose status is not OK, then MF, CF and the parameters are as
before, D8, DOUT64 and EQ are 0, and the next command runs as if the failed one had never been issued.
(States R301.) -/
def Obligations.FailedCommandLeavesNoTrace : Prop :=
  ∀ (s u : State) (w : CmdWord) (d : DataWord) (rest : List Input) (r : Response),
    s.inputs = .command w d :: rest → step s = .next u → u.response = some r → r.status ≠ .ok →
    u.mf = s.mf ∧ u.mfValid = s.mfValid ∧ u.cf = s.cf ∧ u.cfValid = s.cfValid ∧ u.params = s.params ∧
      r.d8 = 0 ∧ r.dout64 = 0 ∧ r.eq = false ∧
      ∀ (w' : CmdWord) (d' : DataWord) (rest' : List Input),
        step { u with inputs := .command w' d' :: rest' } = step { s with inputs := .command w' d' :: rest' }

/-- For every getter, read and equality command and every content of the frame it reads, the response has
status OK. (States R306.) -/
def Obligations.WireContentNeverCausesAnError : Prop :=
  ∀ (i : Instr) (t : Target) (s : State) (f : Frame), readsOnly i = some t → s.frameOf t = some f →
    ∃ u r, exec i s = .next u ∧ u.response = some r ∧ r.status = .ok

/-- A reading command changes nothing but the response, and repeating it gives the same response. Every
command, repeated at once with the same operand and data, leaves the state the first one left. (States
R49.) -/
def Obligations.ReadsHaveNoSideEffect : Prop :=
  ∀ (i : Instr) (s : State), ∃ u, exec i s = .next u ∧ exec i u = .next u ∧
    ∀ t, readsOnly i = some t → ∃ r, u = { s with response := some r }

/-- If a step changes MF_VALID from 0 to 1, its input was the word 0x0001 (MF_LOAD); if it changes CF_VALID
from 0 to 1, the word was 0x0010 (CF_DEFAULT) or 0x0011 (CF_LOAD); if it changes either from 1 to 0, its
input was the reset event. That commands wait in a list (log entry 4), that the reset event is an input
among them (log entry 7) and that a step without an input keeps the frames (log entry 6) are the model's
choices. (Derived from 10_state.md R22, 10_state.md R23.) -/
def Obligations.ValidityChangesOnlyByLoadsAndReset : Prop :=
  ∀ s u : State, step s = .next u →
    (s.mfValid = false → u.mfValid = true → ∃ d rest, s.inputs = .command 0x0001 d :: rest) ∧
    (s.mfValid = true → u.mfValid = false → ∃ rest, s.inputs = .reset :: rest) ∧
    (s.cfValid = false → u.cfValid = true →
      ∃ w d rest, (w = 0x0010 ∨ w = 0x0011) ∧ s.inputs = .command w d :: rest) ∧
    (s.cfValid = true → u.cfValid = false → ∃ rest, s.inputs = .reset :: rest)

/-- A step whose input is not MF_LOAD and after which the master frame is still present keeps byte 0, the
bits of byte 1 outside the destination and the unknown bit, the bits of byte 2 outside the register
type, bits 3 and 0 of byte 5, bits 7:1 of byte 6 and all of byte 7. That commands wait in a list (log
entry 4) and what a step does on the reset event (log entry 7) and without an input (log entry 6) are
the model's choices. (Derived from 40_master_frame.md R110, 10_state.md R26, 30_encoding.md R69.) -/
def Obligations.MasterUnnamedBitsChangeOnlyByLoad : Prop :=
  ∀ (s u : State) (f f' : Frame), step s = .next u → s.mf = some f → u.mf = some f' →
    (∀ d rest, s.inputs ≠ .command 0x0001 d :: rest) →
    f'[0] = f[0] ∧
      (∀ j, j < 8 → ¬ (s.params.destLo ≤ j ∧ j < s.params.destLo + 7) → j ≠ s.params.unkBit →
        f'[1].getLsbD j = f[1].getLsbD j) ∧
      (∀ j, j < 8 → ¬ (s.params.typeLo ≤ j ∧ j < s.params.typeLo + 2) →
        f'[2].getLsbD j = f[2].getLsbD j) ∧
      f'[5].getLsbD 3 = f[5].getLsbD 3 ∧ f'[5].getLsbD 0 = f[5].getLsbD 0 ∧
      (∀ j, 1 ≤ j → j < 8 → f'[6].getLsbD j = f[6].getLsbD j) ∧ f'[7] = f[7]

/-- Every step keeps the invariant: while the host presents no CF_LOAD, a constructed controller frame has
CONTROLLER_ADDRESS in byte 0 and 0 in every bit of bytes 1 and 2 outside the login bit, the query-
register selector and the write bit. That commands wait in a list (log entry 4) and what a step does on
the reset event (log entry 7) and without an input (log entry 6) are the model's choices. (Derived from
41_controller_frame.md R162, 30_encoding.md R70.) -/
def Obligations.CanonicalHeaderIsKept : Prop :=
  ∀ s u : State, CanonicalHeader s → step s = .next u → CanonicalHeader u

/-- Every step keeps the invariant: the parameters satisfy R7, a status other than OK comes with D8 = 0,
DOUT64 = 0 and EQ = 0, and no response has two of D8, DOUT64 and EQ non-zero. That the response is kept
in the state (log entry 5), and what a step does on the reset event (log entry 7), without an input (log
entry 6) and under other parameters (log entry 10), are the model's choices. (Derived from 10_state.md
R29, 60_exceptions.md R301, 00_scope.md R7.) -/
def Obligations.SoundnessIsKept : Prop :=
  ∀ s u : State, Sound s → step s = .next u → Sound u

/-- The state after reset has the parameter values of R6 (defaults from general knowledge, log entries 1 and
2), which are legal; it is sound and its controller header is canonical. The second clause holds of the
response and the third of the inputs at reset because the model has no response there (log entry 5) and
no input (log entry 4), which are its choices; the third holds of CF because R330 leaves no constructed
frame. (Derived from 00_scope.md R6, 00_scope.md R7, 10_state.md R32, 70_reset_and_hazards.md R330.) -/
def Obligations.InvariantsHoldAtReset : Prop :=
  (State.reset.params.destLo = 0 ∧ State.reset.params.unkBit = 7 ∧ State.reset.params.typeLo = 4 ∧
      State.reset.params.loginBit = 5 ∧ State.reset.params.queryLo = 4 ∧
      State.reset.params.writeBit = 3 ∧ State.reset.params.controllerAddress = 32) ∧
    Sound State.reset ∧ CanonicalHeader State.reset

/-- After a status-view setter with a legal immediate on a constructed frame, the whole-frame read of that
frame answers the old frame with the field replaced, the payload read answers its bytes 3 to 7 on lanes
0 to 4, and the equality test against that frame's lanes answers EQ = 1. (Derived from 20_memory.md R47,
10_state.md R25.) -/
def Obligations.ViewWritesAreSeenInTheFrame : Prop :=
  ∀ (i : Instr) (t : Target) (fld : Field) (v : Byte) (s : State) (f : Frame),
    sets i = some (t, fld, v) → viewTarget i = some t → Field.Legal v fld → s.frameOf t = some f →
    ∃ u f' d p, exec i s = .next u ∧ Replaced fld.byte (fld.lo s.params) fld.width v f f' ∧
      (∀ k, laneOf d k = f'[k]) ∧
      (∀ k : Fin 8, laneOf p k = if h : k.val < 5 then f'[3 + k.val] else 0) ∧
      exec (match t with | .master => .mfRead | .controller => .cfRead) u = answers u .ok 0 d false ∧
      exec (match t with | .master => .mfGetPayload | .controller => .cfGetPayload) u =
        answers u .ok 0 p false ∧
      exec (match t with | .master => .mfEq | .controller => .cfEq) { u with din64 := d } =
        answers { u with din64 := d } .ok 0 0 true

/-- A status-view command with target t and a legal operand answers NO_FRAME while that frame is absent; it
never changes the other frame nor bytes 0 to 2 of its own; and it does the same whatever the other frame
holds. (States R200.) -/
def Obligations.ViewCommandsUseOnlyTheSelectedFrame : Prop :=
  ∀ (i : Instr) (t : Target), viewTarget i = some t → ∀ s : State,
    ((∀ t' fld v, sets i = some (t', fld, v) → Field.Legal v fld) → s.frameOf t = none →
      exec i s = answers s .noFrame 0 0 false) ∧
    ∃ u, exec i s = .next u ∧
      (∀ t', t' ≠ t → u.frameOf t' = s.frameOf t') ∧
      (∀ f f', s.frameOf t = some f → u.frameOf t = some f' → ∀ k : Fin 8, k.val < 3 → f'[k] = f[k]) ∧
      ∀ t' g, t' ≠ t → exec i (s.withFrame t' g) = .next (u.withFrame t' g)

/-- Two frames with the same payload bytes, whatever their header bytes (register type and query-register
selector among them), give a status-view command the same response and the same payload afterwards.
(States R201.) -/
def Obligations.ViewIgnoresTheRegisterType : Prop :=
  ∀ (i : Instr) (t : Target) (s : State) (f g : Frame), viewTarget i = some t →
    (∀ k : Fin 8, 3 ≤ k.val → f[k] = g[k]) →
    ∃ u v f' g', exec i (s.withFrame t f) = .next u ∧ exec i (s.withFrame t g) = .next v ∧
      u.response = v.response ∧ u.frameOf t = some f' ∧ v.frameOf t = some g' ∧
      ∀ k : Fin 8, 3 ≤ k.val → f'[k] = g'[k]

/-- Every setter of a header field or a payload field, if it ends with OK, leaves every other bit of its
frame and every bit of the other frame unchanged. (States R222.) -/
def Obligations.SettersChangeOnlyTheirField : Prop :=
  ∀ (i : Instr) (t : Target) (fld : Field) (v : Byte) (s u : State) (r : Response),
    sets i = some (t, fld, v) → exec i s = .next u → u.response = some r → r.status = .ok →
    (∃ f f', s.frameOf t = some f ∧ u.frameOf t = some f' ∧
      ∀ (k : Fin 8) (j : Nat), j < 8 →
        ¬ (k = fld.byte ∧ fld.lo s.params ≤ j ∧ j < fld.lo s.params + fld.width) →
        f'[k].getLsbD j = f[k].getLsbD j) ∧
    ∀ t', t' ≠ t → u.frameOf t' = s.frameOf t'

/-- With legal parameters and a constructed frame: the host presents a field setter with a legal immediate
v, then any number of command words, each with its own data, none of which decodes to a command that
touches that field or its frame as a whole, then the matching getter. The run answers a next state whose
response is OK with D8 = v. After the run exactly these inputs are consumed. R223 gives the value that
the getter returns; that the commands wait in a list of which each step takes the first, so that the
inputs after them remain, and that the response is kept in the state are the model's choices (log
entries 4 and 5). (Derived from 42_status_view.md R223.) -/
def Obligations.GetterReturnsTheWrittenValue : Prop :=
  ∀ (s : State) (i : Instr) (t : Target) (fld : Field) (v : Byte) (f : Frame)
    (mids : List (CmdWord × DataWord)) (d₀ d₁ : DataWord) (rest : List Input),
    LegalParams s.params → sets i = some (t, fld, v) → Field.Legal v fld → s.frameOf t = some f →
    (∀ m ∈ mids, ∀ j, decode m.1 = .ok j → Spares t fld j) →
    s.inputs = .command (encode i) d₀ ::
      (mids.map (fun m => Input.command m.1 m.2) ++ .command (encode (fld.getter t)) d₁ :: rest) →
    ∃ u, Host.Core.run Sys2Proof.core (mids.length + 2) s = .next u ∧ u.inputs = rest ∧
      u.response = some { status := .ok, d8 := v, dout64 := 0, eq := false }

/-- With legal parameters, two setters of different fields or of different frames give the same final frames
in either order; of two setters of the same field, the later one with a legal immediate leaves what it
alone would leave. (States R224.) -/
def Obligations.SettersCommute : Prop :=
  ∀ (i j : Instr) (t t' : Target) (fld fld' : Field) (v v' : Byte) (s : State),
    LegalParams s.params → sets i = some (t, fld, v) → sets j = some (t', fld', v') →
    ∃ a b c e, exec i s = .next a ∧ exec j a = .next b ∧ exec j s = .next c ∧ exec i c = .next e ∧
      ((t, fld) ≠ (t', fld') → b.mf = e.mf ∧ b.cf = e.cf) ∧
      ((t, fld) = (t', fld') → Field.Legal v' fld' → b.mf = c.mf ∧ b.cf = c.cf)

/-- The bytes on the line for a frame are eight, byte k being frame byte k XOR 0xFF; eight such bytes give
the frame back, and any other number of bytes gives none. That the transport's bytes are modelled at
all, outside every step, is the model's choice (log entry 13). (Derived from 20_memory.md R41,
20_memory.md R45, 20_memory.md R54.) -/
def Obligations.WireBytesAreComplementedInOrder : Prop :=
  (∀ f : Frame, (wireOfFrame f).length = 8 ∧
      (∀ k : Fin 8, (wireOfFrame f)[k.val]? = some (f[k] ^^^ 0xFF)) ∧
      frameOfWire (wireOfFrame f) = some f) ∧
    ∀ bs : List Byte, bs.length ≠ 8 → frameOfWire bs = none

/-- MF_LOAD is the word 0x0001. In every state it answers OK with every output 0, MF holds byte for byte the
lanes of DIN64 and is valid, and nothing else changes. (States R100.) -/
def Obligations.MfLoadConstructsTheMasterFrame : Prop :=
  FrameWord .mfLoad 0x0001 ∧ Constructs .mfLoad .master (fun s k => laneOf s.din64 k)

/-- MF_READ is the word 0x0002. It answers NO_FRAME while MF is absent, else OK with MF byte i on lane i of
DOUT64; nothing but the response changes. (States R101.) -/
def Obligations.MfReadReturnsTheWholeFrame : Prop :=
  FrameWord .mfRead 0x0002 ∧ Reads64 .mfRead .master (fun f k => f[k])

/-- MF_GET_PAYLOAD is the word 0x0003. It answers NO_FRAME while MF is absent, else OK with MF byte 3+k on
lane k for k below 5 and 0 on lanes 5 to 7; nothing but the response changes. (States R102.) -/
def Obligations.MfGetPayloadReturnsBytesThreeToSeven : Prop :=
  FrameWord .mfGetPayload 0x0003 ∧
    Reads64 .mfGetPayload .master (fun f k => if h : k.val < 5 then f[3 + k.val] else 0)

/-- MF_EQ is the word 0x0004. It answers NO_FRAME while MF is absent, else OK with EQ = 1 if all eight bytes
equal the lanes of DIN64 and EQ = 0 if one differs; nothing but the response changes. (States R103.) -/
def Obligations.MfEqComparesEveryByte : Prop :=
  FrameWord .mfEq 0x0004 ∧ Compares .mfEq .master

/-- MF_GET_DEST is the word 0x0005. It answers NO_FRAME while MF is absent, else OK with D8 = c if the 7-bit
number c at DEST_LO of MF byte 1 is 0, 1 or 32 and D8 = 0 otherwise; nothing but the response changes.
(States R104.) -/
def Obligations.MfGetDestDecodesTheDestination : Prop :=
  FrameWord .mfGetDest 0x0005 ∧
    Reads8 .mfGetDest .master (fun p f =>
      let c := fieldNum f[1] p.destLo 7
      if c = 0 ∨ c = 1 ∨ c = 32 then c else 0)

/-- MF_SET_DEST imm is any word with bits 7:0 = 0x06 and imm in bits 15:8. Outside {0, 1, 32} it answers
ILLEGAL_OPERAND; then NO_FRAME while MF is absent; else OK, the 7 bits at DEST_LO of MF byte 1 become
imm, and every other bit and all else of the state is unchanged. (States R105.) -/
def Obligations.MfSetDestWritesTheDestination : Prop :=
  ImmWord .mfSetDest 0x0006 ∧
    Writes .mfSetDest .master (fun imm => imm = 0 ∨ imm = 1 ∨ imm = 32) 1 Params.destLo 7

/-- CF_DEFAULT is the word 0x0010. In every state it answers OK with every output 0, CF is valid and holds
CONTROLLER_ADDRESS in byte 0 and 0 in bytes 1 to 7, and nothing else changes. (States R150.) -/
def Obligations.CfDefaultConstructsTheCanonicalFrame : Prop :=
  FrameWord .cfDefault 0x0010 ∧
    Constructs .cfDefault .controller (fun s k =>
      if k = 0 then BitVec.ofNat 8 s.params.controllerAddress else 0)

/-- CF_LOAD is the word 0x0011. In every state it answers OK with every output 0, CF is valid and holds byte
for byte the lanes of DIN64, and nothing else changes. (States R151.) -/
def Obligations.CfLoadConstructsTheControllerFrame : Prop :=
  FrameWord .cfLoad 0x0011 ∧ Constructs .cfLoad .controller (fun s k => laneOf s.din64 k)

/-- CF_READ is the word 0x0012. It answers NO_FRAME while CF is absent, else OK with CF byte i on lane i of
DOUT64; nothing but the response changes. (States R152.) -/
def Obligations.CfReadReturnsTheWholeFrame : Prop :=
  FrameWord .cfRead 0x0012 ∧ Reads64 .cfRead .controller (fun f k => f[k])

/-- CF_GET_PAYLOAD is the word 0x0013. It answers NO_FRAME while CF is absent, else OK with CF byte 3+k on
lane k for k below 5 and 0 on lanes 5 to 7; nothing but the response changes. (States R153.) -/
def Obligations.CfGetPayloadReturnsBytesThreeToSeven : Prop :=
  FrameWord .cfGetPayload 0x0013 ∧
    Reads64 .cfGetPayload .controller (fun f k => if h : k.val < 5 then f[3 + k.val] else 0)

/-- CF_SET_PAYLOAD is the word 0x0014. It answers NO_FRAME while CF is absent, else OK with every output 0,
CF byte 3+k becomes lane k of DIN64 for k below 5, bytes 0 to 2 are unchanged, and nothing else changes.
(States R154.) -/
def Obligations.CfSetPayloadWritesBytesThreeToSeven : Prop :=
  FrameWord .cfSetPayload 0x0014 ∧
    ∀ s : State,
      (s.cf = none → exec .cfSetPayload s = answers s .noFrame 0 0 false) ∧
      ∀ f, s.cf = some f →
        ∃ f', (∀ k : Fin 8, f'[k] = if h : 3 ≤ k.val then laneOf s.din64 ⟨k.val - 3, by omega⟩ else f[k]) ∧
          exec .cfSetPayload s = answers { s with cf := some f' } .ok 0 0 false

/-- CF_EQ is the word 0x0015. It answers NO_FRAME while CF is absent, else OK with EQ = 1 if all eight bytes
equal the lanes of DIN64 and EQ = 0 if one differs; nothing but the response changes. (States R155.) -/
def Obligations.CfEqComparesEveryByte : Prop :=
  FrameWord .cfEq 0x0015 ∧ Compares .cfEq .controller

/-- The three getters are the words 0x0007, 0x0016 and 0x0018. Each answers NO_FRAME while its frame (MF,
CF, CF) is absent, else OK with D8 = bit UNK_BIT of MF byte 1, bit LOGIN_BIT of CF byte 1 or bit
WRITE_BIT of CF byte 2; nothing but the response changes. (States R106, R156, R158.) -/
def Obligations.HeaderBitGettersReadTheirBit : Prop :=
  (FrameWord .mfGetUnknown 0x0007 ∧
      Reads8 .mfGetUnknown .master (fun p f => fieldNum f[1] p.unkBit 1)) ∧
    (FrameWord .cfGetLogin 0x0016 ∧
      Reads8 .cfGetLogin .controller (fun p f => fieldNum f[1] p.loginBit 1)) ∧
    (FrameWord .cfGetWrite 0x0018 ∧
      Reads8 .cfGetWrite .controller (fun p f => fieldNum f[2] p.writeBit 1))

/-- The three setters are the words with bits 7:0 = 0x08, 0x17 and 0x19 and imm in bits 15:8. For imm > 1
each answers ILLEGAL_OPERAND; then NO_FRAME while its frame is absent; else OK, bit UNK_BIT of MF byte
1, bit LOGIN_BIT of CF byte 1 or bit WRITE_BIT of CF byte 2 becomes imm, and every other bit and all
else of the state is unchanged. (States R107, R157, R159.) -/
def Obligations.HeaderBitSettersWriteTheirBit : Prop :=
  (ImmWord .mfSetUnknown 0x0008 ∧
      Writes .mfSetUnknown .master (fun imm => imm.toNat ≤ 1) 1 Params.unkBit 1) ∧
    (ImmWord .cfSetLogin 0x0017 ∧
      Writes .cfSetLogin .controller (fun imm => imm.toNat ≤ 1) 1 Params.loginBit 1) ∧
    (ImmWord .cfSetWrite 0x0019 ∧
      Writes .cfSetWrite .controller (fun imm => imm.toNat ≤ 1) 2 Params.writeBit 1)

/-- MF_GET_TYPE and CF_GET_QUERY are the words 0x0009 and 0x001A. Each answers NO_FRAME while its frame is
absent, else OK with D8 = the 2-bit number at TYPE_LO of MF byte 2 or at QUERY_LO of CF byte 2, every
one of the four codes being a variant; nothing but the response changes. (States R108, R160.) -/
def Obligations.RegisterTypesAreDecoded : Prop :=
  (FrameWord .mfGetType 0x0009 ∧
      Reads8 .mfGetType .master (fun p f => fieldNum f[2] p.typeLo 2)) ∧
    (FrameWord .cfGetQuery 0x001A ∧
      Reads8 .cfGetQuery .controller (fun p f => fieldNum f[2] p.queryLo 2))

/-- MF_SET_TYPE and CF_SET_QUERY are the words with bits 7:0 = 0x0A and 0x1B and imm in bits 15:8. For imm >
3 each answers ILLEGAL_OPERAND; then NO_FRAME while its frame is absent; else OK, the 2 bits at TYPE_LO
of MF byte 2 or at QUERY_LO of CF byte 2 become imm, and every other bit and all else of the state is
unchanged. (States R109, R161.) -/
def Obligations.RegisterTypesAreWritten : Prop :=
  (ImmWord .mfSetType 0x000A ∧
      Writes .mfSetType .master (fun imm => imm.toNat ≤ 3) 2 Params.typeLo 2) ∧
    (ImmWord .cfSetQuery 0x001B ∧
      Writes .cfSetQuery .controller (fun imm => imm.toNat ≤ 3) 2 Params.queryLo 2)

/-- Each of the six getters is any word with its OP (0x20, 0x26, 0x2A, 0x2E, 0x30, 0x32), IMM8 = 0, RSV = 0
and the target in T. On either target it answers NO_FRAME while that frame is absent, else OK with D8 =
its bit of payload byte 0 (bit 0, bit 7), 1 (bit 7), 2 (bit 2, bit 1) or 3 (bit 0); nothing but the
response changes. (States R202, R208, R212, R216, R218, R220.) -/
def Obligations.ViewFlagGettersReadTheirBit : Prop :=
  (ViewGetWord .getEnabled 0x0020 ∧ ∀ t, Reads8 (.getEnabled t) t (fun _ f => fieldNum f[3] 0 1)) ∧
    (ViewGetWord .getError 0x0026 ∧ ∀ t, Reads8 (.getError t) t (fun _ f => fieldNum f[3] 7 1)) ∧
    (ViewGetWord .getEconomy 0x002A ∧ ∀ t, Reads8 (.getEconomy t) t (fun _ f => fieldNum f[4] 7 1)) ∧
    (ViewGetWord .getSwing 0x002E ∧ ∀ t, Reads8 (.getSwing t) t (fun _ f => fieldNum f[5] 2 1)) ∧
    (ViewGetWord .getSwingStep 0x0030 ∧ ∀ t, Reads8 (.getSwingStep t) t (fun _ f => fieldNum f[5] 1 1)) ∧
    (ViewGetWord .getPresent 0x0032 ∧ ∀ t, Reads8 (.getPresent t) t (fun _ f => fieldNum f[6] 0 1))

/-- Each of the six setters is any word with its OP (0x21, 0x27, 0x2B, 0x2F, 0x31, 0x33), RSV = 0, the
target in T and imm in bits 15:8. For imm > 1 it answers ILLEGAL_OPERAND; then NO_FRAME while the frame
is absent; else OK, its bit becomes imm, and every other bit of every byte and all else of the state is
unchanged. (States R203, R209, R213, R217, R219, R221.) -/
def Obligations.ViewFlagSettersWriteTheirBit : Prop :=
  (ViewSetWord .setEnabled 0x0021 ∧ ∀ t, Writes (.setEnabled t) t (fun imm => imm.toNat ≤ 1) 3 (fun _ => 0) 1) ∧
    (ViewSetWord .setError 0x0027 ∧ ∀ t, Writes (.setError t) t (fun imm => imm.toNat ≤ 1) 3 (fun _ => 7) 1) ∧
    (ViewSetWord .setEconomy 0x002B ∧ ∀ t, Writes (.setEconomy t) t (fun imm => imm.toNat ≤ 1) 4 (fun _ => 7) 1) ∧
    (ViewSetWord .setSwing 0x002F ∧ ∀ t, Writes (.setSwing t) t (fun imm => imm.toNat ≤ 1) 5 (fun _ => 2) 1) ∧
    (ViewSetWord .setSwingStep 0x0031 ∧ ∀ t, Writes (.setSwingStep t) t (fun imm => imm.toNat ≤ 1) 5 (fun _ => 1) 1) ∧
    (ViewSetWord .setPresent 0x0033 ∧ ∀ t, Writes (.setPresent t) t (fun imm => imm.toNat ≤ 1) 6 (fun _ => 0) 1)

/-- GET_MODE is any word with OP 0x22, IMM8 = 0, RSV = 0 and the target in T. It answers NO_FRAME while the
frame is absent, else OK with D8 = c if the number c in bits 3:1 of payload byte 0 is 1 to 5 and D8 = 0
otherwise; nothing but the response changes. (States R204, R65.) -/
def Obligations.GetModeDecodesTheMode : Prop :=
  ViewGetWord .getMode 0x0022 ∧
    ∀ t, Reads8 (.getMode t) t (fun _ f =>
      let c := fieldNum f[3] 1 3
      if 1 ≤ c ∧ c ≤ 5 then c else 0)

/-- SET_MODE is any word with OP 0x23, RSV = 0, the target in T and imm in bits 15:8. For imm > 5 it answers
ILLEGAL_OPERAND; then NO_FRAME while the frame is absent; else OK, bits 3:1 of payload byte 0 become
imm, and every other bit and all else of the state is unchanged. (States R205.) -/
def Obligations.SetModeWritesTheMode : Prop :=
  ViewSetWord .setMode 0x0023 ∧
    ∀ t, Writes (.setMode t) t (fun imm => imm.toNat ≤ 5) 3 (fun _ => 1) 3

/-- GET_FAN is any word with OP 0x24, IMM8 = 0, RSV = 0 and the target in T. It answers NO_FRAME while the
frame is absent, else OK with D8 = c if the number c in bits 6:4 of payload byte 0 is at most 4 and D8 =
5 otherwise; nothing but the response changes. (States R206, R66.) -/
def Obligations.GetFanDecodesTheFan : Prop :=
  ViewGetWord .getFan 0x0024 ∧
    ∀ t, Reads8 (.getFan t) t (fun _ f =>
      let c := fieldNum f[3] 4 3
      if c ≤ 4 then c else 5)

/-- SET_FAN is any word with OP 0x25, RSV = 0, the target in T and imm in bits 15:8. For imm > 5 it answers
ILLEGAL_OPERAND; then NO_FRAME while the frame is absent; else OK, bits 6:4 of payload byte 0 become
imm, and every other bit and all else of the state is unchanged. (States R207.) -/
def Obligations.SetFanWritesTheFan : Prop :=
  ViewSetWord .setFan 0x0025 ∧
    ∀ t, Writes (.setFan t) t (fun imm => imm.toNat ≤ 5) 3 (fun _ => 4) 3

/-- GET_TEMP and GET_MAGIC are any words with OP 0x28 and 0x2C, IMM8 = 0, RSV = 0 and the target in T. They
answer NO_FRAME while the frame is absent, else OK with D8 = bits 6:0 of payload byte 1 and bits 7:4 of
payload byte 2, with no range check; nothing but the response changes. (States R210, R214.) -/
def Obligations.TemperatureAndMagicAreReadRaw : Prop :=
  (ViewGetWord .getTemp 0x0028 ∧ ∀ t, Reads8 (.getTemp t) t (fun _ f => fieldNum f[4] 0 7)) ∧
    (ViewGetWord .getMagic 0x002C ∧ ∀ t, Reads8 (.getMagic t) t (fun _ f => fieldNum f[5] 4 4))

/-- SET_TEMP is any word with OP 0x29, RSV = 0, the target in T and imm in bits 15:8. For imm > 127 it
answers ILLEGAL_OPERAND; then NO_FRAME while the frame is absent; else OK, bits 6:0 of payload byte 1
become imm, and every other bit (the economy bit too) and all else of the state is unchanged. (States
R211.) -/
def Obligations.SetTempWritesTheTemperature : Prop :=
  ViewSetWord .setTemp 0x0029 ∧
    ∀ t, Writes (.setTemp t) t (fun imm => imm.toNat ≤ 127) 4 (fun _ => 0) 7

/-- SET_MAGIC is any word with OP 0x2D, RSV = 0, the target in T and imm in bits 15:8. For imm > 15 it
answers ILLEGAL_OPERAND; then NO_FRAME while the frame is absent; else OK, bits 7:4 of payload byte 2
become imm, and every other bit and all else of the state is unchanged. (States R215.) -/
def Obligations.SetMagicWritesUpdateMagic : Prop :=
  ViewSetWord .setMagic 0x002D ∧
    ∀ t, Writes (.setMagic t) t (fun imm => imm.toNat ≤ 15) 5 (fun _ => 4) 4

/-- For every field of every frame and every number v: while the host presents only commands that touch
neither the field nor its frame as a whole (and no reset event), with legal parameters and the frame
constructed, a field that holds v holds v after every step. That what the host presents is a list in the
state (log entry 4), and what a step does without an input (log entry 6), are the model's choices.
(Derived from 42_status_view.md R222, 42_status_view.md R223, 00_scope.md R7.) -/
def Obligations.SparedFieldIsKept : Prop :=
  ∀ (i : Instr) (t : Target) (fld : Field) (imm : Byte) (v : Nat), sets i = some (t, fld, imm) →
    ∀ s u : State, SparedFieldHolds t fld v s → step s = .next u → SparedFieldHolds t fld v u

/-- With legal parameters and a constructed frame: if the next input is a field setter with a legal
immediate v and every later input is a command that spares the field, the step answers a next state in
which the field holds v, the invariant of SparedFieldIsKept. That what the host presents is a list in
the state is the model's choice (log entry 4). (Derived from 42_status_view.md R223, 00_scope.md R11.) -/
def Obligations.SetterEstablishesTheFieldsValue : Prop :=
  ∀ (s : State) (i : Instr) (t : Target) (fld : Field) (v : Byte) (f : Frame) (d : DataWord) (rest : List Input),
    LegalParams s.params → sets i = some (t, fld, v) → Field.Legal v fld → s.frameOf t = some f →
    s.inputs = .command (encode i) d :: rest → Input.reset ∉ rest →
    (∀ w e, Input.command w e ∈ rest → ∀ j, decode w = .ok j → Spares t fld j) →
    ∃ u, step s = .next u ∧ SparedFieldHolds t fld v.toNat u
end

