-- ==== Sys2Proof/Laws/Bits.lean ====
section
/-! SUPPORT. The bits and the numeric value of the field primitives (R9, R11) and of the port lanes (R42). -/

namespace Sys2Proof.Machine

theorem lowMask_eq (w : Nat) : lowMask w = BitVec.ofNat 8 (2 ^ w - 1) := by
  apply BitVec.eq_of_toNat_eq
  by_cases h : w < 8
  · interval_cases w <;> rfl
  · obtain ⟨k, rfl⟩ : ∃ k, w = 8 + k := ⟨w - 8, by omega⟩
    have h1 : (1 : Byte) <<< (8 + k) = 0 := by
      apply BitVec.eq_of_getLsbD_eq
      intro i hi
      simp
    have h2 : 2 ^ (8 + k) - 1 = 255 + 256 * (2 ^ k - 1) := by
      have : 0 < 2 ^ k := Nat.two_pow_pos k
      rw [pow_add]; omega
    rw [lowMask, h1, BitVec.toNat_ofNat, h2]
    simp

/-- Bit `j` of a `w`-bit mask. -/
theorem lowMask_getLsbD (w j : Nat) (hj : j < 8) : (lowMask w).getLsbD j = decide (j < w) := by
  rw [lowMask_eq, BitVec.getLsbD_ofNat, Nat.testBit_two_pow_sub_one]
  simp [hj]

/-- `get` of R11 is the number `(byte >> lo) & (2^w - 1)` of R9, as a quotient and remainder. -/
theorem getField_toNat (fp : FieldPos) (f : Frame) :
    (getField fp f).toNat = f[fp.byte].toNat / 2 ^ fp.lo % 2 ^ fp.width := by
  have hm : (lowMask fp.width).toNat = (2 ^ fp.width - 1) % 2 ^ 8 := by rw [lowMask_eq, BitVec.toNat_ofNat]
  have hx : f[fp.byte].toNat / 2 ^ fp.lo < 2 ^ 8 :=
    Nat.lt_of_le_of_lt (Nat.div_le_self _ _) f[fp.byte].isLt
  have hlt : f[fp.byte].toNat / 2 ^ fp.lo % 2 ^ fp.width < 2 ^ 8 :=
    Nat.lt_of_le_of_lt (Nat.mod_le _ _) hx
  rw [getField, BitVec.toNat_and, BitVec.toNat_ushiftRight, hm, Nat.shiftRight_eq_div_pow]
  generalize f[fp.byte].toNat / 2 ^ fp.lo = x at hx hlt
  rw [← Nat.mod_eq_of_lt hx, ← Nat.and_mod_two_pow, Nat.and_two_pow_sub_one_eq_mod,
    Nat.mod_eq_of_lt hx, Nat.mod_eq_of_lt hlt]

/-- Bit `j` of a field read by `get`. -/
theorem getField_getLsbD (fp : FieldPos) (f : Frame) (j : Nat) (hj : j < 8) :
    (getField fp f).getLsbD j = (decide (j < fp.width) && f[fp.byte].getLsbD (fp.lo + j)) := by
  rw [getField, BitVec.getLsbD_and, BitVec.getLsbD_ushiftRight, lowMask_getLsbD _ _ hj, Bool.and_comm]

/-- Bit `j` of the byte that `put` stores (R11): inside the field the value's bit, outside it the old. -/
theorem putBits_getLsbD (b : Byte) (lo w : Nat) (v : Byte) (j : Nat) (hj : j < 8) :
    (putBits b lo w v).getLsbD j =
      if lo ≤ j ∧ j < lo + w then v.getLsbD (j - lo) else b.getLsbD j := by
  have h' : j - lo < 8 := by omega
  simp only [putBits, BitVec.getLsbD_or, BitVec.getLsbD_and, BitVec.getLsbD_not,
    BitVec.getLsbD_shiftLeft, lowMask_getLsbD _ _ h', hj]
  by_cases h1 : lo ≤ j
  · by_cases h2 : j < lo + w
    · have h3 : j - lo < w := by omega
      have h4 : ¬ j < lo := by omega
      simp [h1, h2, h3, h4]
    · have h3 : ¬ j - lo < w := by omega
      simp [h2, h3]
  · have h4 : j < lo := by omega
    simp [h1, h4]

/-- Every byte after `put`: the field's byte is rewritten, the others are kept (R11). -/
theorem putField_getElem (fp : FieldPos) (v : Byte) (f : Frame) (i : Fin 8) :
    (putField fp v f)[i] = if i = fp.byte then putBits f[fp.byte] fp.lo fp.width v else f[i] := by
  simp only [putField, Fin.getElem_fin, Vector.getElem_set]
  by_cases h : i = fp.byte
  · simp [h]
  · have : ¬ fp.byte.val = i.val := fun e => h (Fin.ext e.symm)
    simp [h, this]

/-- Every bit of a frame after `put` (R11, R222). -/
theorem putField_getLsbD (fp : FieldPos) (v : Byte) (f : Frame) (i : Fin 8) (j : Nat) (hj : j < 8) :
    (putField fp v f)[i].getLsbD j =
      if i = fp.byte ∧ fp.lo ≤ j ∧ j < fp.lo + fp.width then v.getLsbD (j - fp.lo)
      else f[i].getLsbD j := by
  rw [putField_getElem]
  by_cases h : i = fp.byte
  · subst h; simp [putBits_getLsbD _ _ _ _ _ hj]
  · simp [h]

/-- Two frames with the same bits are the same frame. -/
theorem frame_ext_bits {f g : Frame}
    (h : ∀ (i : Fin 8) (j : Nat), j < 8 → f[i].getLsbD j = g[i].getLsbD j) : f = g := by
  apply Vector.ext
  intro i hi
  apply BitVec.eq_of_getLsbD_eq
  intro j hj
  exact h ⟨i, hi⟩ j hj

/-- Reading the field just written gives the written value, if it fits (R223). -/
theorem getField_putField (fp : FieldPos) (v : Byte) (f : Frame)
    (hin : fp.lo + fp.width ≤ 8) (hv : v.toNat < 2 ^ fp.width) : getField fp (putField fp v f) = v := by
  apply BitVec.eq_of_getLsbD_eq
  intro j hj
  rw [getField_getLsbD _ _ _ hj]
  by_cases hw : j < fp.width
  · rw [putField_getLsbD _ _ _ _ _ (by omega)]
    simp [hw]
  · have hz : v.getLsbD j = false := by
      rw [BitVec.getLsbD, Nat.testBit_eq_false_of_lt]
      exact Nat.lt_of_lt_of_le hv (Nat.pow_le_pow_right (by decide) (by omega))
    simp [hw, hz]

/-- Byte `i` of a frame is on lane `i` (R42). -/
theorem lane_lanesOfFrame (f : Frame) (i : Fin 8) : lane (lanesOfFrame f) i.val = f[i] := by
  apply BitVec.eq_of_toNat_eq
  have h0 := f[0].isLt
  have h1 := f[1].isLt
  have h2 := f[2].isLt
  have h3 := f[3].isLt
  have h4 := f[4].isLt
  have h5 := f[5].isLt
  have h6 := f[6].isLt
  have h7 := f[7].isLt
  rw [lane, BitVec.extractLsb'_toNat, lanesOfFrame, BitVec.toNat_ofNat, Nat.shiftRight_eq_div_pow]
  fin_cases i <;> simp only [Fin.getElem_fin] <;> omega

/-- Byte `i` of the frame made of the lanes is lane `i` (R42). -/
@[simp] theorem frameOfLanes_getElem (d : DataWord) (i : Fin 8) : (frameOfLanes d)[i] = lane d i.val := by
  simp [frameOfLanes]

/-- Lanes of a frame, taken back as a frame: nothing is lost (R101, R152 "lossless"). -/
@[simp] theorem frameOfLanes_lanesOfFrame (f : Frame) : frameOfLanes (lanesOfFrame f) = f := by
  apply Vector.ext
  intro i hi
  have h := lane_lanesOfFrame f ⟨i, hi⟩
  simpa [frameOfLanes] using h

/-- Two port values with the same lanes are the same value. -/
theorem dataWord_ext_lanes {d e : DataWord} (h : ∀ i : Fin 8, lane d i.val = lane e i.val) : d = e := by
  apply BitVec.eq_of_getLsbD_eq
  intro k hk
  have := congrArg (fun b => b.getLsbD (k % 8)) (h ⟨k / 8, by omega⟩)
  simp only [lane, BitVec.getLsbD_extractLsb'] at this
  have e1 : 8 * (k / 8) + k % 8 = k := by omega
  have e2 : k % 8 < 8 := by omega
  simpa [e1, e2] using this

/-- A port value is the lanes of the frame its lanes make. -/
@[simp] theorem lanesOfFrame_frameOfLanes (d : DataWord) : lanesOfFrame (frameOfLanes d) = d :=
  dataWord_ext_lanes fun i => by rw [lane_lanesOfFrame, frameOfLanes_getElem]

end Sys2Proof.Machine
end

