-- ==== Sys2Proof/Laws/Decode.lean ====
section
/-! SUPPORT. The fields of a command word as numbers, and what the decoder answers on a word given by its
fields (R72, R75). -/

namespace Sys2Proof

theorem opField_toNat (w : CmdWord) : (opField w).toNat = w.toNat % 64 := by
  simp [opField, BitVec.extractLsb'_toNat]

theorem immField_toNat (w : CmdWord) : (immField w).toNat = w.toNat / 256 := by
  have := w.isLt
  simp only [immField, BitVec.extractLsb'_toNat, Nat.shiftRight_eq_div_pow]
  omega

theorem tField_eq (w : CmdWord) : tField w = decide (w.toNat / 128 % 2 = 1) := by
  simp [tField, BitVec.getLsbD, Nat.testBit_eq_decide_div_mod_eq]

theorem rsvField_eq (w : CmdWord) : rsvField w = decide (w.toNat / 64 % 2 = 1) := by
  simp [rsvField, BitVec.getLsbD, Nat.testBit_eq_decide_div_mod_eq]

theorem cmdWord_toNat (imm : Byte) (t : Bool) (op : BitVec 6) :
    (cmdWord imm t op).toNat = imm.toNat * 256 + t.toNat * 128 + op.toNat := by
  have h1 := imm.isLt
  have h2 := op.isLt
  have h3 := t.toNat_le
  rw [cmdWord, BitVec.toNat_ofNat]
  omega

@[simp] theorem opField_cmdWord (imm : Byte) (t : Bool) (op : BitVec 6) :
    opField (cmdWord imm t op) = op := by
  have h := op.isLt
  apply BitVec.eq_of_toNat_eq
  rw [opField_toNat, cmdWord_toNat]
  omega

@[simp] theorem rsvField_cmdWord (imm : Byte) (t : Bool) (op : BitVec 6) :
    rsvField (cmdWord imm t op) = false := by
  have h := op.isLt
  rw [rsvField_eq, cmdWord_toNat, decide_eq_false_iff_not]
  omega

@[simp] theorem tField_cmdWord (imm : Byte) (t : Bool) (op : BitVec 6) :
    tField (cmdWord imm t op) = t := by
  have h := op.isLt
  rw [tField_eq, cmdWord_toNat]
  cases t <;> simp <;> omega

@[simp] theorem immField_cmdWord (imm : Byte) (t : Bool) (op : BitVec 6) :
    immField (cmdWord imm t op) = imm := by
  have h := op.isLt
  have h3 := t.toNat_le
  apply BitVec.eq_of_toNat_eq
  rw [immField_toNat, cmdWord_toNat]
  omega

/-- A word with RSV = 0 is the word of its three other fields. -/
theorem cmdWord_fields (w : CmdWord) (h : rsvField w = false) :
    cmdWord (immField w) (tField w) (opField w) = w := by
  apply BitVec.eq_of_toNat_eq
  rw [rsvField_eq, decide_eq_false_iff_not] at h
  rw [cmdWord_toNat, immField_toNat, opField_toNat, tField_eq]
  by_cases ht : w.toNat / 128 % 2 = 1 <;> simp [ht] <;> omega

/-- The four fields determine a command word. -/
theorem cmdWord_ext {v w : CmdWord} (h1 : opField v = opField w) (h2 : rsvField v = rsvField w)
    (h3 : tField v = tField w) (h4 : immField v = immField w) : v = w := by
  apply BitVec.eq_of_toNat_eq
  have e1 := congrArg BitVec.toNat h1
  have e4 := congrArg BitVec.toNat h4
  rw [opField_toNat, opField_toNat] at e1
  rw [immField_toNat, immField_toNat] at e4
  rw [rsvField_eq, rsvField_eq, decide_eq_decide] at h2
  rw [tField_eq, tField_eq, decide_eq_decide] at h3
  omega

@[simp] theorem targetOf_targetBit (t : Target) : targetOf (targetBit t) = t := by cases t <;> rfl
@[simp] theorem targetBit_targetOf (b : Bool) : targetBit (targetOf b) = b := by cases b <;> rfl

/-- What the decoder has checked when it answers a command: RSV = 0, the opcode is assigned, and the
fields the shape fixes are as R75 has them. -/
theorem decode_ok_cases {w : CmdWord} {i : Instr} (h : decode w = .ok i) :
    rsvField w = false ∧
      ((shapeOf (opField w).toNat = some (.frame i) ∧ tField w = false ∧ immField w = 0) ∨
        (∃ f, shapeOf (opField w).toNat = some (.frameImm f) ∧ tField w = false ∧ i = f (immField w)) ∨
        (∃ f, shapeOf (opField w).toNat = some (.viewGet f) ∧ immField w = 0 ∧ i = f (targetOf (tField w))) ∨
        ∃ f, shapeOf (opField w).toNat = some (.viewSet f) ∧ i = f (targetOf (tField w)) (immField w)) := by
  unfold decode at h
  split at h
  · cases h
  · next hr =>
    refine ⟨by simpa using hr, ?_⟩
    split at h
    · cases h
    · next j hs =>
      split at h
      · cases h
      · next ht =>
        split at h
        · next hi => cases h; exact .inl ⟨hs, by simpa using ht, hi⟩
        · cases h
    · next f hs =>
      split at h
      · cases h
      · next ht => cases h; exact .inr (.inl ⟨f, hs, by simpa using ht, rfl⟩)
    · next f hs =>
      split at h
      · next hi => cases h; exact .inr (.inr (.inl ⟨f, hs, hi, rfl⟩))
      · cases h
    · next f hs => cases h; exact .inr (.inr (.inr ⟨f, hs, rfl⟩))

end Sys2Proof
end

