-- ==== Sys2Proof/Laws/State.lean ====
section
/-! SUPPORT. What each update of the state leaves in each field. -/

namespace Sys2Proof.Machine

variable (s : State) (r : Response) (t : Target) (f : Frame) (d : DataWord) (rest : List Input)

@[simp] theorem State.answer_params : (s.answer r).params = s.params := rfl
@[simp] theorem State.answer_mf : (s.answer r).mf = s.mf := rfl
@[simp] theorem State.answer_cf : (s.answer r).cf = s.cf := rfl
@[simp] theorem State.answer_din64 : (s.answer r).din64 = s.din64 := rfl
@[simp] theorem State.answer_response : (s.answer r).response = some r := rfl
@[simp] theorem State.answer_inputs : (s.answer r).inputs = s.inputs := rfl
@[simp] theorem State.answer_frameOf : (s.answer r).frameOf t = s.frameOf t := by cases t <;> rfl
@[simp] theorem State.answer_answer (r' : Response) : (s.answer r).answer r' = s.answer r' := rfl

@[simp] theorem State.withFrame_params : (s.withFrame t f).params = s.params := by cases t <;> rfl
@[simp] theorem State.withFrame_din64 : (s.withFrame t f).din64 = s.din64 := by cases t <;> rfl
@[simp] theorem State.withFrame_response : (s.withFrame t f).response = s.response := by cases t <;> rfl
@[simp] theorem State.withFrame_inputs : (s.withFrame t f).inputs = s.inputs := by cases t <;> rfl
@[simp] theorem State.withFrame_frameOf : (s.withFrame t f).frameOf t = some f := by cases t <;> rfl
@[simp] theorem State.withFrame_master_mf : (s.withFrame .master f).mf = some f := rfl
@[simp] theorem State.withFrame_master_cf : (s.withFrame .master f).cf = s.cf := rfl
@[simp] theorem State.withFrame_controller_cf : (s.withFrame .controller f).cf = some f := rfl
@[simp] theorem State.withFrame_controller_mf : (s.withFrame .controller f).mf = s.mf := rfl

/-- A write of one frame register leaves the other as it was (R200). -/
theorem State.withFrame_frameOf_other {t t' : Target} (h : t' ≠ t) :
    (s.withFrame t f).frameOf t' = s.frameOf t' := by
  cases t <;> cases t' <;> first | rfl | exact absurd rfl h

/-- The later of two writes of one frame register stays. -/
@[simp] theorem State.withFrame_withFrame (f' : Frame) :
    (s.withFrame t f).withFrame t f' = s.withFrame t f' := by cases t <;> rfl

/-- Writes of the two frame registers commute. -/
theorem State.withFrame_comm {t t' : Target} (h : t' ≠ t) (f' : Frame) :
    (s.withFrame t f).withFrame t' f' = (s.withFrame t' f').withFrame t f := by
  cases t <;> cases t' <;> first | rfl | exact absurd rfl h

/-- Frames and outputs are written apart. -/
theorem State.answer_withFrame : (s.answer r).withFrame t f = (s.withFrame t f).answer r := by
  cases t <;> rfl

@[simp] theorem frameOf_master : s.frameOf .master = s.mf := rfl
@[simp] theorem frameOf_controller : s.frameOf .controller = s.cf := rfl

@[simp] theorem present_params : (present d rest s).params = s.params := rfl
@[simp] theorem present_mf : (present d rest s).mf = s.mf := rfl
@[simp] theorem present_cf : (present d rest s).cf = s.cf := rfl
@[simp] theorem present_din64 : (present d rest s).din64 = d := rfl
@[simp] theorem present_response : (present d rest s).response = s.response := rfl
@[simp] theorem present_inputs : (present d rest s).inputs = rest := rfl
@[simp] theorem present_frameOf : (present d rest s).frameOf t = s.frameOf t := by cases t <;> rfl

@[simp] theorem reset_params : State.reset.params = defaultParams := rfl
@[simp] theorem reset_mf : State.reset.mf = none := rfl
@[simp] theorem reset_cf : State.reset.cf = none := rfl
@[simp] theorem reset_response : State.reset.response = none := rfl
@[simp] theorem reset_inputs : State.reset.inputs = [] := rfl

end Sys2Proof.Machine
end

