-- ==== Sys2Proof/Laws/Ops.lean ====
section
/-! SUPPORT. For each shared operation, all it can do: every one answers a next state, and which. -/

namespace Sys2Proof.Machine

/-- A raised status changes the response and nothing else (R301). -/
theorem raise_eq (st : Status) (s : State) : raise st s = .next (s.answer { status := st }) := rfl

/-- The frame check passes exactly where the frame is constructed (R304). -/
theorem needFrame_none {t : Target} {s : State} (h : s.frameOf t = none) (k : Frame → Result) :
    needFrame t s k = raise .noFrame s := by simp [needFrame, h]

theorem needFrame_some {t : Target} {s : State} {f : Frame} (h : s.frameOf t = some f)
    (k : Frame → Result) : needFrame t s k = k f := by simp [needFrame, h]

/-- Whatever `needFrame` answers: NO_FRAME, or what the command does with the frame. -/
theorem needFrame_cases {t : Target} {s u : State} {k : Frame → Result} (h : needFrame t s k = .next u) :
    (s.frameOf t = none ∧ u = s.answer { status := .noFrame }) ∨
      ∃ f, s.frameOf t = some f ∧ k f = .next u := by
  unfold needFrame at h
  split at h
  · next hn => exact .inl ⟨hn, by simpa [raise] using h.symm⟩
  · next f hf => exact .inr ⟨f, hf, h⟩

/-- The operand check (R303). -/
@[simp] theorem checkOperand_true (s : State) (k : Result) : checkOperand true s k = k := rfl
@[simp] theorem checkOperand_false (s : State) (k : Result) :
    checkOperand false s k = raise .illegalOperand s := rfl

/-- A constructor's one outcome. -/
theorem construct_eq (t : Target) (f : Frame) (s : State) :
    construct t f s = .next ((s.withFrame t f).answer {}) := rfl

/-- All a command that answers on `D8` can do. -/
theorem readD8_cases {t : Target} {v : Frame → Byte} {s u : State} (h : readD8 t v s = .next u) :
    (s.frameOf t = none ∧ u = s.answer { status := .noFrame }) ∨
      ∃ f, s.frameOf t = some f ∧ u = s.answer { d8 := v f } := by
  obtain h | ⟨f, hf, h⟩ := needFrame_cases h
  · exact .inl h
  · exact .inr ⟨f, hf, by simpa using h.symm⟩

/-- All a command that answers on `DOUT64` can do. -/
theorem readDout_cases {t : Target} {v : Frame → DataWord} {s u : State}
    (h : readDout t v s = .next u) :
    (s.frameOf t = none ∧ u = s.answer { status := .noFrame }) ∨
      ∃ f, s.frameOf t = some f ∧ u = s.answer { dout64 := v f } := by
  obtain h | ⟨f, hf, h⟩ := needFrame_cases h
  · exact .inl h
  · exact .inr ⟨f, hf, by simpa using h.symm⟩

/-- All a comparison can do. -/
theorem compareFrame_cases {t : Target} {s u : State} (h : compareFrame t s = .next u) :
    (s.frameOf t = none ∧ u = s.answer { status := .noFrame }) ∨
      ∃ f, s.frameOf t = some f ∧ u = s.answer { eq := eqFlag f s.din64 } := by
  obtain h | ⟨f, hf, h⟩ := needFrame_cases h
  · exact .inl h
  · exact .inr ⟨f, hf, by simpa using h.symm⟩

/-- All an edit in place can do. -/
theorem editFrame_cases {t : Target} {e : Frame → Frame} {s u : State}
    (h : editFrame t e s = .next u) :
    (s.frameOf t = none ∧ u = s.answer { status := .noFrame }) ∨
      ∃ f, s.frameOf t = some f ∧ u = (s.withFrame t (e f)).answer {} := by
  obtain h | ⟨f, hf, h⟩ := needFrame_cases h
  · exact .inl h
  · exact .inr ⟨f, hf, by simpa using h.symm⟩

/-- All a field setter can do, in the order of R305. -/
theorem setField_cases {t : Target} {fp : FieldPos} {legal : Bool} {imm : Byte} {s u : State}
    (h : setField t fp legal imm s = .next u) :
    (legal = false ∧ u = s.answer { status := .illegalOperand }) ∨
      (legal = true ∧ s.frameOf t = none ∧ u = s.answer { status := .noFrame }) ∨
      ∃ f, legal = true ∧ s.frameOf t = some f ∧
        u = (s.withFrame t (putField fp imm f)).answer {} := by
  cases legal with
  | false => exact .inl ⟨rfl, by simpa [setField, raise] using h.symm⟩
  | true =>
    obtain ⟨hn, hu⟩ | ⟨f, hf, hu⟩ := editFrame_cases (by simpa [setField] using h)
    · exact .inr (.inl ⟨rfl, hn, hu⟩)
    · exact .inr (.inr ⟨f, rfl, hf, hu⟩)

/-- The flag `EQ` is full-byte equality (R103, R155). -/
theorem eqFlag_eq_true (f : Frame) (d : DataWord) :
    eqFlag f d = true ↔ ∀ i : Fin 8, f[i] = lane d i.val := by
  rw [eqFlag, beq_iff_eq]
  constructor
  · rintro rfl i; simp [frameOfLanes]
  · intro h
    apply Vector.ext
    intro i hi
    have := h ⟨i, hi⟩
    simpa [frameOfLanes] using this

end Sys2Proof.Machine
end

