-- ==== Sys2Proof/Laws/PerInstr.lean ====
section
/-! SUPPORT. Per command: its encoding selects the row of the opcode table that bears its mnemonic (R75). -/

namespace Sys2Proof.Laws

/-- The word of the command selects a row of the opcode table that has the command's mnemonic (R75). -/
def EncodesItsRow.Statement (i : Instr) : Prop :=
  ∃ r ∈ opcodeRows, r.mnemonic = i.mnemonic ∧ r.selects (encode i) = true

/-- A row with mask 0x00FF selects every word of its opcode with T = 0 (R75). -/
theorem selects_frameImm (m : String) (imm : Byte) (op : BitVec 6) (v : CmdWord)
    (hv : v.toNat = op.toNat) : OpcodeRow.selects ⟨m, 0x00FF, v⟩ (cmdWord imm false op) = true := by
  have h := op.isLt
  rw [OpcodeRow.selects, beq_iff_eq]
  apply BitVec.eq_of_toNat_eq
  rw [BitVec.toNat_and]
  change _ &&& 2 ^ 8 - 1 = v.toNat
  rw [Nat.and_two_pow_sub_one_eq_mod, cmdWord_toNat, hv, Bool.toNat_false]
  omega

/-- A row with mask 0x007F selects every word of its opcode (R75). -/
theorem selects_viewSet (m : String) (imm : Byte) (t : Bool) (op : BitVec 6) (v : CmdWord)
    (hv : v.toNat = op.toNat) : OpcodeRow.selects ⟨m, 0x007F, v⟩ (cmdWord imm t op) = true := by
  have h := op.isLt
  rw [OpcodeRow.selects, beq_iff_eq]
  apply BitVec.eq_of_toNat_eq
  rw [BitVec.toNat_and]
  change _ &&& 2 ^ 7 - 1 = v.toNat
  rw [Nat.and_two_pow_sub_one_eq_mod, cmdWord_toNat, hv]
  omega

theorem EncodesItsRow.mfLoad : EncodesItsRow.Statement .mfLoad :=
  ⟨⟨"MF_LOAD", 0xFFFF, 0x0001⟩, by decide, rfl, by decide⟩

theorem EncodesItsRow.mfRead : EncodesItsRow.Statement .mfRead :=
  ⟨⟨"MF_READ", 0xFFFF, 0x0002⟩, by decide, rfl, by decide⟩

theorem EncodesItsRow.mfGetPayload : EncodesItsRow.Statement .mfGetPayload :=
  ⟨⟨"MF_GET_PAYLOAD", 0xFFFF, 0x0003⟩, by decide, rfl, by decide⟩

theorem EncodesItsRow.mfEq : EncodesItsRow.Statement .mfEq :=
  ⟨⟨"MF_EQ", 0xFFFF, 0x0004⟩, by decide, rfl, by decide⟩

theorem EncodesItsRow.mfGetDest : EncodesItsRow.Statement .mfGetDest :=
  ⟨⟨"MF_GET_DEST", 0xFFFF, 0x0005⟩, by decide, rfl, by decide⟩

theorem EncodesItsRow.mfSetDest (imm : Byte) : EncodesItsRow.Statement (.mfSetDest imm) :=
  ⟨⟨"MF_SET_DEST", 0x00FF, 0x0006⟩, by decide, rfl, selects_frameImm _ _ _ _ rfl⟩

theorem EncodesItsRow.mfGetUnknown : EncodesItsRow.Statement .mfGetUnknown :=
  ⟨⟨"MF_GET_UNKNOWN", 0xFFFF, 0x0007⟩, by decide, rfl, by decide⟩

theorem EncodesItsRow.mfSetUnknown (imm : Byte) : EncodesItsRow.Statement (.mfSetUnknown imm) :=
  ⟨⟨"MF_SET_UNKNOWN", 0x00FF, 0x0008⟩, by decide, rfl, selects_frameImm _ _ _ _ rfl⟩

theorem EncodesItsRow.mfGetType : EncodesItsRow.Statement .mfGetType :=
  ⟨⟨"MF_GET_TYPE", 0xFFFF, 0x0009⟩, by decide, rfl, by decide⟩

theorem EncodesItsRow.mfSetType (imm : Byte) : EncodesItsRow.Statement (.mfSetType imm) :=
  ⟨⟨"MF_SET_TYPE", 0x00FF, 0x000A⟩, by decide, rfl, selects_frameImm _ _ _ _ rfl⟩

theorem EncodesItsRow.cfDefault : EncodesItsRow.Statement .cfDefault :=
  ⟨⟨"CF_DEFAULT", 0xFFFF, 0x0010⟩, by decide, rfl, by decide⟩

theorem EncodesItsRow.cfLoad : EncodesItsRow.Statement .cfLoad :=
  ⟨⟨"CF_LOAD", 0xFFFF, 0x0011⟩, by decide, rfl, by decide⟩

theorem EncodesItsRow.cfRead : EncodesItsRow.Statement .cfRead :=
  ⟨⟨"CF_READ", 0xFFFF, 0x0012⟩, by decide, rfl, by decide⟩

theorem EncodesItsRow.cfGetPayload : EncodesItsRow.Statement .cfGetPayload :=
  ⟨⟨"CF_GET_PAYLOAD", 0xFFFF, 0x0013⟩, by decide, rfl, by decide⟩

theorem EncodesItsRow.cfSetPayload : EncodesItsRow.Statement .cfSetPayload :=
  ⟨⟨"CF_SET_PAYLOAD", 0xFFFF, 0x0014⟩, by decide, rfl, by decide⟩

theorem EncodesItsRow.cfEq : EncodesItsRow.Statement .cfEq :=
  ⟨⟨"CF_EQ", 0xFFFF, 0x0015⟩, by decide, rfl, by decide⟩

theorem EncodesItsRow.cfGetLogin : EncodesItsRow.Statement .cfGetLogin :=
  ⟨⟨"CF_GET_LOGIN", 0xFFFF, 0x0016⟩, by decide, rfl, by decide⟩

theorem EncodesItsRow.cfSetLogin (imm : Byte) : EncodesItsRow.Statement (.cfSetLogin imm) :=
  ⟨⟨"CF_SET_LOGIN", 0x00FF, 0x0017⟩, by decide, rfl, selects_frameImm _ _ _ _ rfl⟩

theorem EncodesItsRow.cfGetWrite : EncodesItsRow.Statement .cfGetWrite :=
  ⟨⟨"CF_GET_WRITE", 0xFFFF, 0x0018⟩, by decide, rfl, by decide⟩

theorem EncodesItsRow.cfSetWrite (imm : Byte) : EncodesItsRow.Statement (.cfSetWrite imm) :=
  ⟨⟨"CF_SET_WRITE", 0x00FF, 0x0019⟩, by decide, rfl, selects_frameImm _ _ _ _ rfl⟩

theorem EncodesItsRow.cfGetQuery : EncodesItsRow.Statement .cfGetQuery :=
  ⟨⟨"CF_GET_QUERY", 0xFFFF, 0x001A⟩, by decide, rfl, by decide⟩

theorem EncodesItsRow.cfSetQuery (imm : Byte) : EncodesItsRow.Statement (.cfSetQuery imm) :=
  ⟨⟨"CF_SET_QUERY", 0x00FF, 0x001B⟩, by decide, rfl, selects_frameImm _ _ _ _ rfl⟩

theorem EncodesItsRow.getEnabled (t : Target) : EncodesItsRow.Statement (.getEnabled t) :=
  ⟨⟨"GET_ENABLED", 0xFF7F, 0x0020⟩, by decide, rfl, by cases t <;> decide⟩

theorem EncodesItsRow.setEnabled (t : Target) (imm : Byte) : EncodesItsRow.Statement (.setEnabled t imm) :=
  ⟨⟨"SET_ENABLED", 0x007F, 0x0021⟩, by decide, rfl, selects_viewSet _ _ _ _ _ rfl⟩

theorem EncodesItsRow.getMode (t : Target) : EncodesItsRow.Statement (.getMode t) :=
  ⟨⟨"GET_MODE", 0xFF7F, 0x0022⟩, by decide, rfl, by cases t <;> decide⟩

theorem EncodesItsRow.setMode (t : Target) (imm : Byte) : EncodesItsRow.Statement (.setMode t imm) :=
  ⟨⟨"SET_MODE", 0x007F, 0x0023⟩, by decide, rfl, selects_viewSet _ _ _ _ _ rfl⟩

theorem EncodesItsRow.getFan (t : Target) : EncodesItsRow.Statement (.getFan t) :=
  ⟨⟨"GET_FAN", 0xFF7F, 0x0024⟩, by decide, rfl, by cases t <;> decide⟩

theorem EncodesItsRow.setFan (t : Target) (imm : Byte) : EncodesItsRow.Statement (.setFan t imm) :=
  ⟨⟨"SET_FAN", 0x007F, 0x0025⟩, by decide, rfl, selects_viewSet _ _ _ _ _ rfl⟩

theorem EncodesItsRow.getError (t : Target) : EncodesItsRow.Statement (.getError t) :=
  ⟨⟨"GET_ERROR", 0xFF7F, 0x0026⟩, by decide, rfl, by cases t <;> decide⟩

theorem EncodesItsRow.setError (t : Target) (imm : Byte) : EncodesItsRow.Statement (.setError t imm) :=
  ⟨⟨"SET_ERROR", 0x007F, 0x0027⟩, by decide, rfl, selects_viewSet _ _ _ _ _ rfl⟩

theorem EncodesItsRow.getTemp (t : Target) : EncodesItsRow.Statement (.getTemp t) :=
  ⟨⟨"GET_TEMP", 0xFF7F, 0x0028⟩, by decide, rfl, by cases t <;> decide⟩

theorem EncodesItsRow.setTemp (t : Target) (imm : Byte) : EncodesItsRow.Statement (.setTemp t imm) :=
  ⟨⟨"SET_TEMP", 0x007F, 0x0029⟩, by decide, rfl, selects_viewSet _ _ _ _ _ rfl⟩

theorem EncodesItsRow.getEconomy (t : Target) : EncodesItsRow.Statement (.getEconomy t) :=
  ⟨⟨"GET_ECONOMY", 0xFF7F, 0x002A⟩, by decide, rfl, by cases t <;> decide⟩

theorem EncodesItsRow.setEconomy (t : Target) (imm : Byte) : EncodesItsRow.Statement (.setEconomy t imm) :=
  ⟨⟨"SET_ECONOMY", 0x007F, 0x002B⟩, by decide, rfl, selects_viewSet _ _ _ _ _ rfl⟩

theorem EncodesItsRow.getMagic (t : Target) : EncodesItsRow.Statement (.getMagic t) :=
  ⟨⟨"GET_MAGIC", 0xFF7F, 0x002C⟩, by decide, rfl, by cases t <;> decide⟩

theorem EncodesItsRow.setMagic (t : Target) (imm : Byte) : EncodesItsRow.Statement (.setMagic t imm) :=
  ⟨⟨"SET_MAGIC", 0x007F, 0x002D⟩, by decide, rfl, selects_viewSet _ _ _ _ _ rfl⟩

theorem EncodesItsRow.getSwing (t : Target) : EncodesItsRow.Statement (.getSwing t) :=
  ⟨⟨"GET_SWING", 0xFF7F, 0x002E⟩, by decide, rfl, by cases t <;> decide⟩

theorem EncodesItsRow.setSwing (t : Target) (imm : Byte) : EncodesItsRow.Statement (.setSwing t imm) :=
  ⟨⟨"SET_SWING", 0x007F, 0x002F⟩, by decide, rfl, selects_viewSet _ _ _ _ _ rfl⟩

theorem EncodesItsRow.getSwingStep (t : Target) : EncodesItsRow.Statement (.getSwingStep t) :=
  ⟨⟨"GET_SWING_STEP", 0xFF7F, 0x0030⟩, by decide, rfl, by cases t <;> decide⟩

theorem EncodesItsRow.setSwingStep (t : Target) (imm : Byte) : EncodesItsRow.Statement (.setSwingStep t imm) :=
  ⟨⟨"SET_SWING_STEP", 0x007F, 0x0031⟩, by decide, rfl, selects_viewSet _ _ _ _ _ rfl⟩

theorem EncodesItsRow.getPresent (t : Target) : EncodesItsRow.Statement (.getPresent t) :=
  ⟨⟨"GET_PRESENT", 0xFF7F, 0x0032⟩, by decide, rfl, by cases t <;> decide⟩

theorem EncodesItsRow.setPresent (t : Target) (imm : Byte) : EncodesItsRow.Statement (.setPresent t imm) :=
  ⟨⟨"SET_PRESENT", 0x007F, 0x0033⟩, by decide, rfl, selects_viewSet _ _ _ _ _ rfl⟩

end Sys2Proof.Laws
end

