-- ==== Sys2Proof/Laws/Rules.lean ====
section
/-! SUPPORT. What a command can do, said once for each of the four kinds of command (readers, field setters,
constructors, CF_SET_PAYLOAD), and how the shared operations meet the rule shapes of Safety.lean. -/

namespace Sys2Proof.Rules

open Machine

/-! ### Parameters, masks and fields -/

/-- The check of `step` is the four conditions of R7. -/
theorem legalParams_iff (p : Params) : LegalParams p ↔ p.legal = true := by
  simp only [LegalParams, Params.legal, Params.insideBytes, Params.destUnknownApart,
    Params.queryWriteApart, Params.addressFits, Bool.and_eq_true, Bool.or_eq_true, decide_eq_true_eq]
  constructor
  · rintro ⟨⟨h1, h2, h3, h4, h5, h6⟩, h7, h8, h9⟩
    have := h7 p.unkBit
    have := h8 p.writeBit
    refine ⟨⟨⟨?_, ?_⟩, ?_⟩, h9⟩ <;> omega
  · rintro ⟨⟨⟨h1, h2⟩, h3⟩, h4⟩
    exact ⟨by omega, fun j => by omega, fun j => by omega, h4⟩

/-- Masking a word with `2^n - 1` keeps its lowest `n` bits. -/
theorem and_lowMask_toNat (w m : CmdWord) (n : Nat) (hm : m.toNat = 2 ^ n - 1) :
    (w &&& m).toNat = w.toNat % 2 ^ n := by
  rw [BitVec.toNat_and, hm, Nat.and_two_pow_sub_one_eq_mod]

/-- Masking a word with 0xFF7F clears bit 7 and nothing else. -/
theorem and_FF7F_toNat (w : CmdWord) : (w &&& 0xFF7F).toNat = w.toNat / 256 * 256 + w.toNat % 128 := by
  have hw := w.isLt
  have h1 : (w.toNat &&& 0xFF7F) / 2 ^ 8 = w.toNat / 2 ^ 8 := by
    rw [Nat.and_div_two_pow]
    change _ &&& (2 ^ 8 - 1) = _
    rw [Nat.and_two_pow_sub_one_eq_mod]
    omega
  have h2 : (w.toNat &&& 0xFF7F) % 2 ^ 8 = w.toNat % 2 ^ 7 := by
    rw [Nat.and_mod_two_pow]
    change _ &&& (2 ^ 7 - 1) = _
    rw [Nat.and_two_pow_sub_one_eq_mod]
    omega
  rw [BitVec.toNat_and]
  change w.toNat &&& 0xFF7F = _
  omega

/-- `get` reads the number of R9. -/
theorem getField_toNat_eq_fieldNum (fp : FieldPos) (f : Frame) :
    (getField fp f).toNat = fieldNum f[fp.byte] fp.lo fp.width := getField_toNat fp f

/-- Where a named field lies under a parameter assignment. -/
def Field.pos (p : Params) (fld : Field) : FieldPos := ⟨fld.byte, fld.lo p, fld.width⟩

/-- Under legal parameters every field lies inside its byte (R7, R43). -/
theorem Field.lo_add_width_le {p : Params} (h : LegalParams p) (fld : Field) :
    fld.lo p + fld.width ≤ 8 := by
  obtain ⟨⟨h1, h2, h3, h4, h5, h6⟩, -⟩ := h
  cases fld <;> simp only [Field.lo, Field.width] <;> omega

/-- A legal immediate fits its field, so `put` discards none of its bits (R11). -/
theorem Field.legal_lt {v : Byte} {fld : Field} (h : fld.Legal v) : v.toNat < 2 ^ fld.width := by
  cases fld <;> simp only [Field.Legal, Field.width] at h ⊢ <;>
    first
      | omega
      | (obtain rfl | rfl | rfl := h <;> decide)

/-! ### Shared operations and rule shapes -/

/-- A command that is `readD8` has the shape `Reads8`. -/
theorem reads8_of_readD8 {i : Instr} {t : Target} {v : State → Frame → Byte} {d8 : Params → Frame → Nat}
    (h : ∀ s, exec i s = readD8 t (v s) s) (hv : ∀ s f, (v s f).toNat = d8 s.params f) :
    Reads8 i t d8 := by
  intro s
  refine ⟨fun hn => ?_, fun f hf => ⟨?_, ?_⟩⟩
  · rw [h, readD8, needFrame_none hn]; rfl
  · rw [← hv]; exact (v s f).isLt
  · rw [h, readD8, needFrame_some hf, ← hv, BitVec.ofNat_toNat]
    simp [answers, State.answer]

/-- A command that is `readDout` has the shape `Reads64`. -/
theorem reads64_of_readDout {i : Instr} {t : Target} {v : Frame → DataWord} {b : Frame → Fin 8 → Byte}
    (h : ∀ s, exec i s = readDout t v s) (hv : ∀ f k, laneOf (v f) k = b f k) : Reads64 i t b := by
  intro s
  refine ⟨fun hn => ?_, fun f hf => ⟨v f, hv f, ?_⟩⟩
  · rw [h, readDout, needFrame_none hn]; rfl
  · rw [h, readDout, needFrame_some hf]; rfl

/-- A command that is `compareFrame` has the shape `Compares`. -/
theorem compares_of_compareFrame {i : Instr} {t : Target} (h : ∀ s, exec i s = compareFrame t s) :
    Compares i t := by
  intro s
  refine ⟨fun hn => ?_, fun f hf => ⟨fun he => ?_, fun ⟨k, he⟩ => ?_⟩⟩
  · rw [h, compareFrame, needFrame_none hn]; rfl
  · rw [h, compareFrame, needFrame_some hf, (eqFlag_eq_true _ _).2 he]; rfl
  · have : eqFlag f s.din64 = false := by
      rw [Bool.eq_false_iff]
      exact fun h' => he ((eqFlag_eq_true _ _).1 h' k)
    rw [h, compareFrame, needFrame_some hf, this]; rfl

/-- A command that is `setField` has the shape `Writes`. -/
theorem writes_of_setField {i : Byte → Instr} {t : Target} {legal : Byte → Bool} {L : Byte → Prop}
    {fp : Params → FieldPos} {byte : Fin 8} {lo : Params → Nat} {w : Nat}
    (h : ∀ s imm, exec (i imm) s = setField t (fp s.params) (legal imm) imm s)
    (hl : ∀ imm, L imm ↔ legal imm = true) (hfp : ∀ p, fp p = ⟨byte, lo p, w⟩) :
    Writes i t L byte lo w := by
  intro s imm
  refine ⟨fun hn => ?_, fun hy hn => ?_, fun hy f hf => ⟨putField (fp s.params) imm f, ?_, ?_⟩⟩
  · rw [hl, Bool.not_eq_true] at hn
    rw [h, setField, hn]; rfl
  · rw [hl] at hy
    rw [h, setField, hy, checkOperand_true, editFrame, needFrame_none hn]; rfl
  · intro k j hj
    rw [putField_getLsbD _ _ _ _ _ hj, hfp]
  · rw [hl] at hy
    rw [h, setField, hy, checkOperand_true, editFrame, needFrame_some hf]; rfl

/-! ### The four kinds of command -/

/-- Every command is a reader, a field setter, a constructor or CF_SET_PAYLOAD. -/
theorem instr_kinds (i : Instr) :
    (∃ t, readsOnly i = some t) ∨ (∃ t fld v, sets i = some (t, fld, v)) ∨
      i = .mfLoad ∨ i = .cfDefault ∨ i = .cfLoad ∨ i = .cfSetPayload := by
  cases i <;> simp [readsOnly, sets]

/-- What a reader is: one output, computed from the parameters, DIN64 and the frame alone; only the
equality tests read DIN64. -/
def IsReader (i : Instr) (t : Target) : Prop :=
  ∃ g : Params → DataWord → Frame → Response,
    (∀ p d f, (g p d f).status = .ok ∧ CleanResponse (g p d f)) ∧
    (i ≠ .mfEq → i ≠ .cfEq → ∀ p d e f, g p d f = g p e f) ∧
    ∀ s, exec i s = needFrame t s fun f => .next (s.answer (g s.params s.din64 f))

theorem isReader_of_readD8 {i : Instr} {t : Target} (v : Params → Frame → Byte)
    (h : ∀ s, exec i s = readD8 t (v s.params) s) : IsReader i t :=
  ⟨fun p _ f => { d8 := v p f }, fun _ _ _ => by simp [CleanResponse], fun _ _ _ _ _ _ => rfl, h⟩

theorem isReader_of_readDout {i : Instr} {t : Target} (v : Frame → DataWord)
    (h : ∀ s, exec i s = readDout t v s) : IsReader i t :=
  ⟨fun _ _ f => { dout64 := v f }, fun _ _ _ => by simp [CleanResponse], fun _ _ _ _ _ _ => rfl, h⟩

theorem isReader_of_compareFrame {i : Instr} {t : Target} (hi : i = .mfEq ∨ i = .cfEq)
    (h : ∀ s, exec i s = compareFrame t s) : IsReader i t :=
  ⟨fun _ d f => { eq := eqFlag f d }, fun _ _ _ => by simp [CleanResponse],
    fun h1 h2 => absurd hi (by simp [h1, h2]), h⟩

/-- Every reading command is a reader. -/
theorem exec_reader {i : Instr} {t : Target} (h : readsOnly i = some t) : IsReader i t := by
  cases i <;> simp only [readsOnly, reduceCtorEq, Option.some.injEq] at h <;> subst h
  case mfRead => exact isReader_of_readDout lanesOfFrame fun _ => rfl
  case mfGetPayload => exact isReader_of_readDout lanesOfPayload fun _ => rfl
  case mfEq => exact isReader_of_compareFrame (by simp) fun _ => rfl
  case mfGetDest => exact isReader_of_readD8 (fun p f => destinationCode (decodeDestination (getField (destField p) f))) fun _ => rfl
  case mfGetUnknown => exact isReader_of_readD8 (fun p => getField (unknownField p)) fun _ => rfl
  case mfGetType => exact isReader_of_readD8 (fun p f => registerTypeCode (decodeRegisterType (getField (typeField p) f))) fun _ => rfl
  case cfRead => exact isReader_of_readDout lanesOfFrame fun _ => rfl
  case cfGetPayload => exact isReader_of_readDout lanesOfPayload fun _ => rfl
  case cfEq => exact isReader_of_compareFrame (by simp) fun _ => rfl
  case cfGetLogin => exact isReader_of_readD8 (fun p => getField (loginField p)) fun _ => rfl
  case cfGetWrite => exact isReader_of_readD8 (fun p => getField (writeField p)) fun _ => rfl
  case cfGetQuery => exact isReader_of_readD8 (fun p f => registerTypeCode (decodeRegisterType (getField (queryField p) f))) fun _ => rfl
  case getEnabled => exact isReader_of_readD8 (fun _ => getField enabledField) fun _ => rfl
  case getMode => exact isReader_of_readD8 (fun _ f => modeCode (decodeMode (getField modeField f))) fun _ => rfl
  case getFan => exact isReader_of_readD8 (fun _ f => fanCode (decodeFan (getField fanField f))) fun _ => rfl
  case getError => exact isReader_of_readD8 (fun _ => getField errorField) fun _ => rfl
  case getTemp => exact isReader_of_readD8 (fun _ => getField tempField) fun _ => rfl
  case getEconomy => exact isReader_of_readD8 (fun _ => getField economyField) fun _ => rfl
  case getMagic => exact isReader_of_readD8 (fun _ => getField magicField) fun _ => rfl
  case getSwing => exact isReader_of_readD8 (fun _ => getField swingField) fun _ => rfl
  case getSwingStep => exact isReader_of_readD8 (fun _ => getField swingStepField) fun _ => rfl
  case getPresent => exact isReader_of_readD8 (fun _ => getField presentField) fun _ => rfl

/-- A field setter is `setField` at the field's place, with the legal set of R303. -/
theorem exec_setter {i : Instr} {t : Target} {fld : Field} {v : Byte} (h : sets i = some (t, fld, v)) :
    ∃ legal : Bool, (legal = true ↔ fld.Legal v) ∧
      ∀ s, exec i s = setField t (fld.pos s.params) legal v s := by
  cases i <;> simp only [sets, reduceCtorEq, Option.some.injEq, Prod.mk.injEq] at h <;>
    obtain ⟨rfl, rfl, rfl⟩ := h
  case mfSetDest => exact ⟨legalDest _, by simp [legalDest, Field.Legal, or_assoc], fun _ => rfl⟩
  case mfSetUnknown => exact ⟨legalFlag _, by simp [legalFlag, Field.Legal], fun _ => rfl⟩
  case mfSetType => exact ⟨legalType _, by simp [legalType, Field.Legal], fun _ => rfl⟩
  case cfSetLogin => exact ⟨legalFlag _, by simp [legalFlag, Field.Legal], fun _ => rfl⟩
  case cfSetWrite => exact ⟨legalFlag _, by simp [legalFlag, Field.Legal], fun _ => rfl⟩
  case cfSetQuery => exact ⟨legalType _, by simp [legalType, Field.Legal], fun _ => rfl⟩
  case setEnabled => exact ⟨legalFlag _, by simp [legalFlag, Field.Legal], fun _ => rfl⟩
  case setMode => exact ⟨legalMode _, by simp [legalMode, Field.Legal], fun _ => rfl⟩
  case setFan => exact ⟨legalFan _, by simp [legalFan, Field.Legal], fun _ => rfl⟩
  case setError => exact ⟨legalFlag _, by simp [legalFlag, Field.Legal], fun _ => rfl⟩
  case setTemp => exact ⟨legalTemp _, by simp [legalTemp, Field.Legal], fun _ => rfl⟩
  case setEconomy => exact ⟨legalFlag _, by simp [legalFlag, Field.Legal], fun _ => rfl⟩
  case setMagic => exact ⟨legalMagic _, by simp [legalMagic, Field.Legal], fun _ => rfl⟩
  case setSwing => exact ⟨legalFlag _, by simp [legalFlag, Field.Legal], fun _ => rfl⟩
  case setSwingStep => exact ⟨legalFlag _, by simp [legalFlag, Field.Legal], fun _ => rfl⟩
  case setPresent => exact ⟨legalFlag _, by simp [legalFlag, Field.Legal], fun _ => rfl⟩

/-- A field setter's outcomes, in the order of R305. -/
theorem exec_setter_cases {i : Instr} {t : Target} {fld : Field} {v : Byte}
    (h : sets i = some (t, fld, v)) (s : State) :
    (¬ fld.Legal v ∧ exec i s = .next (s.answer { status := .illegalOperand })) ∨
      (fld.Legal v ∧ s.frameOf t = none ∧ exec i s = .next (s.answer { status := .noFrame })) ∨
      ∃ f, fld.Legal v ∧ s.frameOf t = some f ∧
        exec i s = .next ((s.withFrame t (putField (fld.pos s.params) v f)).answer {}) := by
  obtain ⟨legal, hl, he⟩ := exec_setter h
  cases legal with
  | false => exact .inl ⟨by simpa using hl, by rw [he]; rfl⟩
  | true =>
    have hL := hl.1 rfl
    cases hf : s.frameOf t with
    | none => exact .inr (.inl ⟨hL, rfl, by rw [he, setField, checkOperand_true, editFrame, needFrame_none hf]; rfl⟩)
    | some f =>
      exact .inr (.inr ⟨f, hL, rfl, by rw [he, setField, checkOperand_true, editFrame, needFrame_some hf]⟩)

end Sys2Proof.Rules
end

