-- ==== Sys2Proof/Laws/Step.lean ====
section
/-! SUPPORT. All one step can do, said once, and how a run takes its first step. -/

namespace Sys2Proof.Rules

open Machine

/-- CF_SET_PAYLOAD's outcomes. -/
theorem exec_cfSetPayload_cases (s : State) :
    (s.cf = none ∧ exec .cfSetPayload s = .next (s.answer { status := .noFrame })) ∨
      ∃ f, s.cf = some f ∧ exec .cfSetPayload s =
        .next ((s.withFrame .controller (putPayload (lane s.din64 0) (lane s.din64 1) (lane s.din64 2)
          (lane s.din64 3) (lane s.din64 4) f)).answer {}) := by
  cases hf : s.cf with
  | none =>
    refine .inl ⟨rfl, ?_⟩
    change editFrame _ _ _ = _
    rw [editFrame, needFrame_none (t := .controller) hf]; rfl
  | some f =>
    refine .inr ⟨f, rfl, ?_⟩
    change editFrame _ _ _ = _
    rw [editFrame, needFrame_some (t := .controller) hf]

/-- A step on a command, under legal parameters. -/
theorem step_command {s : State} (hp : LegalParams s.params) {w : CmdWord} {d : DataWord}
    {rest : List Input} (hi : s.inputs = .command w d :: rest) :
    step s = runCommand w (present d rest s) := by
  rw [step, if_pos ((legalParams_iff _).1 hp), hi]

/-- Whatever a step answers: an idle step, the reset event, a decoded command, or ILLEGAL_COMMAND. -/
theorem step_cases {s u : State} (h : step s = .next u) :
    s.params.legal = true ∧
      ((s.inputs = [] ∧ u = { s with response := none }) ∨
        (∃ rest, s.inputs = .reset :: rest ∧
          u = { s with mf := none, cf := none, response := none, inputs := rest }) ∨
        ∃ w d rest, s.inputs = .command w d :: rest ∧
          ((∃ i, decode w = .ok i ∧ exec i (present d rest s) = .next u) ∨
            ((∀ i, decode w ≠ .ok i) ∧
              u = (present d rest s).answer { status := .illegalCommand }))) := by
  unfold step at h
  split at h
  · next hl =>
    refine ⟨hl, ?_⟩
    split at h
    · next hi => exact .inl ⟨hi, by simpa [idle] using h.symm⟩
    · next rest hi => exact .inr (.inl ⟨rest, hi, by simpa [takeReset] using h.symm⟩)
    · next w d rest hi =>
      refine .inr (.inr ⟨_, _, _, hi, ?_⟩)
      unfold runCommand at h
      split at h
      · next i hd => exact .inl ⟨i, hd, h⟩
      · next e hd => exact .inr ⟨fun i h' => by simp [hd] at h', by simpa [raise] using h.symm⟩
  · cases h

/-- A run whose first step answers `u` goes on from `u`. -/
theorem run_succ (M : Host.Core) {s u : M.State} (h : M.step s = .next u) (k : Nat) :
    M.run (k + 1) s = M.run k u := by
  rw [Host.Core.run.eq_def]
  simp only [h]

end Sys2Proof.Rules
end

