-- ==== Sys2Proof/Tests/Slice0.lean ====
section
/-! SUPPORT. Tests. Expected results come from the spec: the encodings of 30_encoding.md and the vectors of
95_test_vectors.md (named V-… and W… after it), which "were computed from the rules"; each is one step. The last
section shows, for each statement that has hypotheses, states and operands that meet them. -/

namespace Sys2Proof.Tests

open Machine Rules

/-! ### Helpers -/

/-- A block with the default parameters and these frames. -/
def block (m c : Option Frame) : State := { State.reset with mf := m, cf := c }

/-- `S` of 95_test_vectors.md 2.1. -/
def frameS : Frame := #v[0x01, 0x20, 0x00, 0x17, 0x18, 0x00, 0x01, 0x00]

/-- `D` of 95_test_vectors.md 2.2. -/
def frameD : Frame := #v[0x20, 0, 0, 0, 0, 0, 0, 0]

/-- `frameS` with master byte 1 and byte 2 as given. -/
def masterWith (b1 b2 : Byte) : State := block (some #v[0x01, b1, b2, 0x17, 0x18, 0, 1, 0]) none

/-- `frameD` with controller byte 1 and byte 2 as given. -/
def controllerWith (b1 b2 : Byte) : State := block none (some #v[0x20, b1, b2, 0, 0, 0, 0, 0])

/-- `frameD` with these payload bytes. -/
def payloadWith (p0 p1 p2 p3 : Byte) : State := block none (some #v[0x20, 0, 0, p0, p1, p2, p3, 0])

/-- The state after a step that answers one. -/
def nextOf : Result → Option State
  | .next s => some s
  | .fault _ => none
  | .refused _ => none

/-- The host presents one command; the state after that one step. -/
def issue (w : CmdWord) (d : DataWord) (s : State) : Option State :=
  nextOf (step { s with inputs := [.command w d] })

/-- The response to one command. -/
def response (w : CmdWord) (d : DataWord) (s : State) : Option Response :=
  (issue w d s).bind State.response

/-- The status of the response. -/
def status (w : CmdWord) (s : State) : Option Status := (response w 0 s).map Response.status

/-- The response is OK with this `D8`. -/
def readsD8 (w : CmdWord) (s : State) (v : Byte) : Prop := response w 0 s = some { d8 := v }

/-- The controller frame's bytes after one command that ends with OK. -/
def cfAfter (w : CmdWord) (d : DataWord) (s : State) : Option (List Byte) :=
  if status w s = some .ok then (issue w d s).bind fun u => u.cf.map Vector.toList else none

/-- The master frame's bytes after one command that ends with OK. -/
def mfAfter (w : CmdWord) (d : DataWord) (s : State) : Option (List Byte) :=
  if status w s = some .ok then (issue w d s).bind fun u => u.mf.map Vector.toList else none

/-- A status-view setter's effect on the payload bytes of the controller frame `p0 p1 p2 p3 00`. -/
def setsPayload (w : CmdWord) (s : State) (p0 p1 p2 p3 : Byte) : Prop :=
  cfAfter w 0 s = some [0x20, 0, 0, p0, p1, p2, p3, 0]

/-! ### Ill-formed commands are refused by WellFormed (R303) -/

theorem test_illFormed_dest_33 : Instr.wellFormed (.mfSetDest 33) = false := by decide
theorem test_illFormed_unknown_2 : Instr.wellFormed (.mfSetUnknown 2) = false := by decide
theorem test_illFormed_type_4 : Instr.wellFormed (.mfSetType 4) = false := by decide
theorem test_illFormed_login_2 : Instr.wellFormed (.cfSetLogin 2) = false := by decide
theorem test_illFormed_write_255 : Instr.wellFormed (.cfSetWrite 255) = false := by decide
theorem test_illFormed_query_4 : Instr.wellFormed (.cfSetQuery 4) = false := by decide
theorem test_illFormed_enabled_2 : Instr.wellFormed (.setEnabled .master 2) = false := by decide
theorem test_illFormed_mode_6 : Instr.wellFormed (.setMode .controller 6) = false := by decide
theorem test_illFormed_fan_6 : Instr.wellFormed (.setFan .controller 6) = false := by decide
theorem test_illFormed_error_2 : Instr.wellFormed (.setError .master 2) = false := by decide
theorem test_illFormed_temp_128 : Instr.wellFormed (.setTemp .controller 128) = false := by decide
theorem test_illFormed_economy_2 : Instr.wellFormed (.setEconomy .master 2) = false := by decide
theorem test_illFormed_magic_16 : Instr.wellFormed (.setMagic .controller 16) = false := by decide
theorem test_illFormed_swing_2 : Instr.wellFormed (.setSwing .master 2) = false := by decide
theorem test_illFormed_swingStep_2 : Instr.wellFormed (.setSwingStep .master 2) = false := by decide
theorem test_illFormed_present_2 : Instr.wellFormed (.setPresent .controller 2) = false := by decide

/-! ### Words written out bit by bit from R72 and R74: IMM8, then T, RSV, then OP -/

theorem test_word_mfLoad : decode 0b00000000_0_0_000001 = .ok .mfLoad := by decide
theorem test_word_mfRead : decode 0b00000000_0_0_000010 = .ok .mfRead := by decide
theorem test_word_mfGetPayload : decode 0b00000000_0_0_000011 = .ok .mfGetPayload := by decide
theorem test_word_mfEq : decode 0b00000000_0_0_000100 = .ok .mfEq := by decide
theorem test_word_mfGetDest : decode 0b00000000_0_0_000101 = .ok .mfGetDest := by decide
theorem test_word_mfSetDest : decode 0b00100000_0_0_000110 = .ok (.mfSetDest 32) := by decide
theorem test_word_mfGetUnknown : decode 0b00000000_0_0_000111 = .ok .mfGetUnknown := by decide
theorem test_word_mfSetUnknown : decode 0b00000001_0_0_001000 = .ok (.mfSetUnknown 1) := by decide
theorem test_word_mfGetType : decode 0b00000000_0_0_001001 = .ok .mfGetType := by decide
theorem test_word_mfSetType : decode 0b00000010_0_0_001010 = .ok (.mfSetType 2) := by decide
theorem test_word_cfDefault : decode 0b00000000_0_0_010000 = .ok .cfDefault := by decide
theorem test_word_cfLoad : decode 0b00000000_0_0_010001 = .ok .cfLoad := by decide
theorem test_word_cfRead : decode 0b00000000_0_0_010010 = .ok .cfRead := by decide
theorem test_word_cfGetPayload : decode 0b00000000_0_0_010011 = .ok .cfGetPayload := by decide
theorem test_word_cfSetPayload : decode 0b00000000_0_0_010100 = .ok .cfSetPayload := by decide
theorem test_word_cfEq : decode 0b00000000_0_0_010101 = .ok .cfEq := by decide
theorem test_word_cfGetLogin : decode 0b00000000_0_0_010110 = .ok .cfGetLogin := by decide
theorem test_word_cfSetLogin : decode 0b00000001_0_0_010111 = .ok (.cfSetLogin 1) := by decide
theorem test_word_cfGetWrite : decode 0b00000000_0_0_011000 = .ok .cfGetWrite := by decide
theorem test_word_cfSetWrite : decode 0b11111111_0_0_011001 = .ok (.cfSetWrite 255) := by decide
theorem test_word_cfGetQuery : decode 0b00000000_0_0_011010 = .ok .cfGetQuery := by decide
theorem test_word_cfSetQuery : decode 0b00000011_0_0_011011 = .ok (.cfSetQuery 3) := by decide
theorem test_word_getEnabled : decode 0b00000000_0_0_100000 = .ok (.getEnabled .master) := by decide
theorem test_word_setEnabled : decode 0b00000001_1_0_100001 = .ok (.setEnabled .controller 1) := by decide
theorem test_word_getMode : decode 0b00000000_1_0_100010 = .ok (.getMode .controller) := by decide
theorem test_word_setMode : decode 0b00000011_0_0_100011 = .ok (.setMode .master 3) := by decide
theorem test_word_getFan : decode 0b00000000_0_0_100100 = .ok (.getFan .master) := by decide
theorem test_word_setFan : decode 0b00000101_1_0_100101 = .ok (.setFan .controller 5) := by decide
theorem test_word_getError : decode 0b00000000_1_0_100110 = .ok (.getError .controller) := by decide
theorem test_word_setError : decode 0b00000000_0_0_100111 = .ok (.setError .master 0) := by decide
theorem test_word_getTemp : decode 0b00000000_0_0_101000 = .ok (.getTemp .master) := by decide
theorem test_word_setTemp : decode 0b01111111_1_0_101001 = .ok (.setTemp .controller 127) := by decide
theorem test_word_getEconomy : decode 0b00000000_1_0_101010 = .ok (.getEconomy .controller) := by decide
theorem test_word_setEconomy : decode 0b00000001_0_0_101011 = .ok (.setEconomy .master 1) := by decide
theorem test_word_getMagic : decode 0b00000000_0_0_101100 = .ok (.getMagic .master) := by decide
theorem test_word_setMagic : decode 0b00001111_1_0_101101 = .ok (.setMagic .controller 15) := by decide
theorem test_word_getSwing : decode 0b00000000_1_0_101110 = .ok (.getSwing .controller) := by decide
theorem test_word_setSwing : decode 0b00000001_0_0_101111 = .ok (.setSwing .master 1) := by decide
theorem test_word_getSwingStep : decode 0b00000000_0_0_110000 = .ok (.getSwingStep .master) := by decide
theorem test_word_setSwingStep : decode 0b00000010_1_0_110001 = .ok (.setSwingStep .controller 2) := by decide
theorem test_word_getPresent : decode 0b00000000_1_0_110010 = .ok (.getPresent .controller) := by decide
theorem test_word_setPresent : decode 0b00000001_0_0_110011 = .ok (.setPresent .master 1) := by decide

/-- V-E1 to V-E6, V-M18, V-M19: words that select no row, each for its reason of R76. -/
theorem test_illegalWords :
    decode 0x0000 = .error .unassignedOp ∧ decode 0x000B = .error .unassignedOp ∧
      decode 0x0034 = .error .unassignedOp ∧ decode 0x0042 = .error .reservedBit ∧
      decode 0x0090 = .error .targetBitInFrameCommand ∧ decode 0x0082 = .error .targetBitInFrameCommand ∧
      decode 0x01A2 = .error .immediateNotTaken ∧ decode 0x0102 = .error .immediateNotTaken := by decide

/-- V-E7 to V-E10. -/
theorem test_legalWords :
    decode 0x00A2 = .ok (.getMode .controller) ∧ decode 0xFF06 = .ok (.mfSetDest 255) ∧
      decode 0x2006 = .ok (.mfSetDest 32) ∧ decode 0x03A3 = .ok (.setMode .controller 3) := by decide

/-- The table's numbering: the command word is bits 15:0 of one 16-bit word (R72, R77). -/
theorem test_tableWord : decodeTableWord 16 0x2006 = some (.mfSetDest 32) ∧
    decodeTableWord 16 0x0042 = none ∧ decodeTableWord 32 0x0001 = none := by decide

/-! ### Master-frame commands (95_test_vectors.md 2.1) -/

/-- V-M1. -/
theorem test_mfLoad : (issue 0x0001 0x0001001817002001 State.reset).map State.mf = some (some frameS) := by
  decide

/-- V-M2, V-M3. -/
theorem test_mfRead : response 0x0002 0 (block (some frameS) none) = some { dout64 := 0x0001001817002001 } ∧
    response 0x0002 0 State.reset = some { status := .noFrame } := by decide

/-- V-M4. -/
theorem test_mfGetPayload :
    response 0x0003 0 (block (some frameS) none) = some { dout64 := 0x0000000001001817 } := by decide

/-- V-M5, V-M6, V-M7. -/
theorem test_mfEq : response 0x0004 0x0001001817002001 (block (some frameS) none) = some { eq := true } ∧
    response 0x0004 0x0001001817002000 (block (some frameS) none) = some { eq := false } ∧
    response 0x0004 0x8001001817002001 (block (some frameS) none) = some { eq := false } := by decide

/-- V-D1 to V-D6. -/
theorem test_mfGetDest : readsD8 0x0005 (masterWith 0x20 0) 32 ∧ readsD8 0x0005 (masterWith 0x01 0) 1 ∧
    readsD8 0x0005 (masterWith 0x00 0) 0 ∧ readsD8 0x0005 (masterWith 0x21 0) 0 ∧
    readsD8 0x0005 (masterWith 0x7F 0) 0 ∧ readsD8 0x0005 (masterWith 0xA0 0) 32 := by
  unfold readsD8; decide

/-- V-M8. -/
theorem test_mfSetDest : mfAfter 0x0106 0 (block (some frameS) none) =
    some [0x01, 0x01, 0x00, 0x17, 0x18, 0x00, 0x01, 0x00] := by decide

/-- V-M9, V-M10. -/
theorem test_mfSetDest_illegal : status 0x2106 (block (some frameS) none) = some .illegalOperand ∧
    status 0x2106 State.reset = some .illegalOperand := by decide

/-- V-M11. -/
theorem test_mfGetUnknown : readsD8 0x0007 (masterWith 0xA0 0) 1 ∧ readsD8 0x0007 (masterWith 0x7F 0) 0 := by
  unfold readsD8; decide

/-- V-M12. -/
theorem test_mfSetUnknown : mfAfter 0x0108 0 (block (some frameS) none) =
    some [0x01, 0xA0, 0x00, 0x17, 0x18, 0x00, 0x01, 0x00] := by decide

/-- V-M13. -/
theorem test_mfSetUnknown_illegal : status 0x0208 (block (some frameS) none) = some .illegalOperand := by
  decide

/-- V-M14, V-M15. -/
theorem test_mfGetType : readsD8 0x0009 (masterWith 0 0x00) 0 ∧ readsD8 0x0009 (masterWith 0 0x10) 1 ∧
    readsD8 0x0009 (masterWith 0 0x20) 2 ∧ readsD8 0x0009 (masterWith 0 0x30) 3 ∧
    readsD8 0x0009 (masterWith 0 0xEF) 2 := by unfold readsD8; decide

/-- V-M16. -/
theorem test_mfSetType : mfAfter 0x020A 0 (masterWith 0 0xCF) =
    some [0x01, 0x00, 0xEF, 0x17, 0x18, 0x00, 0x01, 0x00] := by decide

/-- V-M17. -/
theorem test_mfSetType_illegal : status 0x040A (block (some frameS) none) = some .illegalOperand := by decide

/-! ### Controller-frame commands (95_test_vectors.md 2.2) -/

/-- V-C1, V-C2. -/
theorem test_cfDefault : (issue 0x0010 0 State.reset).map State.cf = some (some frameD) ∧
    (issue 0x0010 0 (block none (some (Vector.replicate 8 0xFF)))).map State.cf = some (some frameD) := by
  decide

/-- V-C3. -/
theorem test_cfLoad : (issue 0x0011 0x0001001817002020 State.reset).map State.cf =
    some (some #v[0x20, 0x20, 0x00, 0x17, 0x18, 0x00, 0x01, 0x00]) := by decide

/-- V-C4, V-C5. -/
theorem test_cfRead : response 0x0012 0 (block none (some frameD)) = some { dout64 := 0x20 } ∧
    response 0x0012 0 State.reset = some { status := .noFrame } := by decide

/-- V-C6. -/
theorem test_cfGetPayload :
    response 0x0013 0 (payloadWith 0 0x16 0 0) = some { dout64 := 0x1600 } := by decide

/-- V-C7: lanes 5 to 7 are ignored. -/
theorem test_cfSetPayload : cfAfter 0x0014 0xEEEEEE0001001817 (block none (some frameD)) =
    some [0x20, 0x00, 0x00, 0x17, 0x18, 0x00, 0x01, 0x00] := by decide

/-- V-C8. -/
theorem test_cfSetPayload_noFrame :
    response 0x0014 0x0001001817 State.reset = some { status := .noFrame } := by decide

/-- V-C9, V-C10. -/
theorem test_cfEq : response 0x0015 0x20 (block none (some frameD)) = some { eq := true } ∧
    response 0x0015 0x080020 (block none (some frameD)) = some { eq := false } := by decide

/-- V-C12, and the set bit. -/
theorem test_cfGetLogin : readsD8 0x0016 (controllerWith 0xDF 0) 0 ∧
    readsD8 0x0016 (controllerWith 0x20 0) 1 := by unfold readsD8; decide

/-- V-C11, V-C13. -/
theorem test_cfSetLogin : cfAfter 0x0117 0 (block none (some frameD)) = some [0x20, 0x20, 0, 0, 0, 0, 0, 0] ∧
    cfAfter 0x0117 0 (controllerWith 0xDF 0) = some [0x20, 0xFF, 0, 0, 0, 0, 0, 0] := by decide

/-- V-C16, and the set bit of V-C15. -/
theorem test_cfGetWrite : readsD8 0x0018 (controllerWith 0 0x30) 0 ∧
    readsD8 0x0018 (controllerWith 0 0x28) 1 := by unfold readsD8; decide

/-- V-C14, V-C15. -/
theorem test_cfSetWrite : cfAfter 0x0119 0 (block none (some frameD)) = some [0x20, 0, 0x08, 0, 0, 0, 0, 0] ∧
    cfAfter 0x0119 0 (controllerWith 0 0x20) = some [0x20, 0, 0x28, 0, 0, 0, 0, 0] := by decide

/-- V-C21. -/
theorem test_cfSetWrite_illegal : status 0xFF19 (block none (some frameD)) = some .illegalOperand := by decide

/-- V-C17. -/
theorem test_cfGetQuery : readsD8 0x001A (controllerWith 0 0x28) 2 := by unfold readsD8; decide

/-- V-C18, V-C19. -/
theorem test_cfSetQuery : cfAfter 0x011B 0 (controllerWith 0 0x08) = some [0x20, 0, 0x18, 0, 0, 0, 0, 0] ∧
    cfAfter 0x021B 0 (block none (some frameD)) = some [0x20, 0, 0x20, 0, 0, 0, 0, 0] := by decide

/-- V-C20. -/
theorem test_cfSetQuery_illegal : status 0x041B (block none (some frameD)) = some .illegalOperand := by decide

/-! ### Status-view commands (95_test_vectors.md 2.3) -/

/-- V-S5's byte before and after, read. -/
theorem test_getEnabled : readsD8 0x00A0 (payloadWith 0xFE 0 0 0) 0 ∧
    readsD8 0x00A0 (payloadWith 0x01 0 0 0) 1 := by unfold readsD8; decide

/-- V-Z1, V-S5. -/
theorem test_setEnabled : setsPayload 0x01A1 (payloadWith 0 0 0 0) 0x01 0 0 0 ∧
    setsPayload 0x01A1 (payloadWith 0xFE 0 0 0) 0xFF 0 0 0 := by unfold setsPayload; decide

/-- V-S1 (W2, W5): every raw mode. -/
theorem test_getMode : [0x00, 0x02, 0x04, 0x06, 0x08, 0x0A, 0x0C, 0x0E].map
    (fun p0 => (response 0x00A2 0 (payloadWith p0 0 0 0)).map Response.d8) =
    [some 0, some 1, some 2, some 3, some 4, some 5, some 0, some 0] := by decide

/-- V-S22, V-S25: T = 0 reads the master frame only, whatever its register type. -/
theorem test_getMode_target : status 0x0022 (block none (some frameD)) = some .noFrame ∧
    readsD8 0x0022 (masterWith 0x20 0x20) 3 := by unfold readsD8; decide

/-- V-Z2, V-S3. -/
theorem test_setMode : setsPayload 0x03A3 (payloadWith 0 0 0 0) 0x06 0 0 0 ∧
    setsPayload 0x01A3 (payloadWith 0x0E 0 0 0) 0x02 0 0 0 := by unfold setsPayload; decide

/-- V-S6, V-S23: the operand is checked before the frame (R305). -/
theorem test_setMode_illegal : status 0x06A3 (payloadWith 0 0 0 0) = some .illegalOperand ∧
    status 0x07A3 State.reset = some .illegalOperand := by decide

/-- V-S2 (W3, W5): every raw fan speed. -/
theorem test_getFan : [0x00, 0x10, 0x20, 0x30, 0x40, 0x50, 0x60, 0x70].map
    (fun p0 => (response 0x00A4 0 (payloadWith p0 0 0 0)).map Response.d8) =
    [some 0, some 1, some 2, some 3, some 4, some 5, some 5, some 5] := by decide

/-- V-Z3, V-S4: the mode bits are kept. -/
theorem test_setFan : setsPayload 0x03A5 (payloadWith 0 0 0 0) 0x30 0 0 0 ∧
    setsPayload 0x01A5 (payloadWith 0x7F 0 0 0) 0x1F 0 0 0 := by unfold setsPayload; decide

/-- V-S7. -/
theorem test_setFan_illegal : status 0x06A5 (payloadWith 0 0 0 0) = some .illegalOperand := by decide

/-- V-S21. -/
theorem test_getError : readsD8 0x00A6 (payloadWith 0x80 0 0 0) 1 ∧
    readsD8 0x00A6 (payloadWith 0x7F 0 0 0) 0 := by unfold readsD8; decide

/-- V-Z4. -/
theorem test_setError : setsPayload 0x01A7 (payloadWith 0 0 0 0) 0x80 0 0 0 := by unfold setsPayload; decide

/-- V-S8. -/
theorem test_getTemp : readsD8 0x00A8 (payloadWith 0 0x98 0 0) 24 := by unfold readsD8; decide

/-- W1 (V-Z5), V-S9: the economy bit is kept. -/
theorem test_setTemp : setsPayload 0x0AA9 (payloadWith 0 0 0 0) 0 10 0 0 ∧
    setsPayload 0x7FA9 (payloadWith 0 0x80 0 0) 0 0xFF 0 0 := by unfold setsPayload; decide

/-- V-S11, V-S12, and V-S24: T = 0 writes the master frame. -/
theorem test_setTemp_more : status 0x80A9 (payloadWith 0 0 0 0) = some .illegalOperand ∧
    status 0xFFA9 (payloadWith 0 0 0 0) = some .illegalOperand ∧
    issue 0x1E29 0 (block (some frameS) (some frameD)) =
      some { block (some #v[0x01, 0x20, 0x00, 0x17, 0x1E, 0x00, 0x01, 0x00]) (some frameD) with
        response := some {} } := by decide

/-- V-S8. -/
theorem test_getEconomy : readsD8 0x00AA (payloadWith 0 0x98 0 0) 1 ∧
    readsD8 0x00AA (payloadWith 0 0x7F 0 0) 0 := by unfold readsD8; decide

/-- V-Z6, V-S13. -/
theorem test_setEconomy : setsPayload 0x01AB (payloadWith 0 0 0 0) 0 0x80 0 0 ∧
    setsPayload 0x01AB (payloadWith 0 0x18 0 0) 0 0x98 0 0 := by unfold setsPayload; decide

/-- V-S14. -/
theorem test_getMagic : readsD8 0x00AC (payloadWith 0 0 0xA6 0) 10 := by unfold readsD8; decide

/-- V-Z7, V-S15. -/
theorem test_setMagic : setsPayload 0x0AAD (payloadWith 0 0 0 0) 0 0 0xA0 0 ∧
    setsPayload 0x0FAD (payloadWith 0 0 0x06 0) 0 0 0xF6 0 := by unfold setsPayload; decide

/-- V-S16. -/
theorem test_setMagic_illegal : status 0x10AD (payloadWith 0 0 0 0) = some .illegalOperand := by decide

/-- V-S14, V-S18. -/
theorem test_getSwing : readsD8 0x00AE (payloadWith 0 0 0xA6 0) 1 ∧
    readsD8 0x00AE (payloadWith 0 0 0x02 0) 0 := by unfold readsD8; decide

/-- V-Z8, V-S17. -/
theorem test_setSwing : setsPayload 0x01AF (payloadWith 0 0 0 0) 0 0 0x04 0 ∧
    setsPayload 0x01AF (payloadWith 0 0 0xFB 0) 0 0 0xFF 0 := by unfold setsPayload; decide

/-- V-S14, V-S18. -/
theorem test_getSwingStep : readsD8 0x00B0 (payloadWith 0 0 0xA6 0) 1 ∧
    readsD8 0x00B0 (payloadWith 0 0 0x04 0) 0 := by unfold readsD8; decide

/-- V-Z9. -/
theorem test_setSwingStep : setsPayload 0x01B1 (payloadWith 0 0 0 0) 0 0 0x02 0 := by
  unfold setsPayload; decide

/-- V-S19. -/
theorem test_getPresent : readsD8 0x00B2 (payloadWith 0 0 0 0xFE) 0 ∧
    readsD8 0x00B2 (payloadWith 0 0 0 0x01) 1 := by unfold readsD8; decide

/-- V-Z10, V-S20. -/
theorem test_setPresent : setsPayload 0x01B3 (payloadWith 0 0 0 0) 0 0 0 0x01 ∧
    setsPayload 0x01B3 (payloadWith 0 0 0 0xFE) 0 0 0 0xFF := by unfold setsPayload; decide

/-! ### The step, the reset event, the assembler and the wire -/

/-- V-E1: an illegal word answers ILLEGAL_COMMAND and keeps both frames (R301, R302). -/
theorem test_illegalCommand : issue 0x0000 7 (block (some frameS) (some frameD)) =
    some { block (some frameS) (some frameD) with
      din64 := 7, response := some { status := .illegalCommand } } := by decide

/-- R330: the reset event clears both frames. -/
theorem test_resetEvent :
    nextOf (step { block (some frameS) (some frameD) with inputs := [.reset] }) = some State.reset := by decide

/-- The word that is to run next runs next: CF_DEFAULT from the reset state. -/
theorem test_withFetchWord :
    (nextOf (step (State.reset.withFetchWord 16 0x0010))).map State.cf = some (some frameD) := by decide

/-- A line with the braces of a data operand, which no string literal here may hold. -/
def dataLine (before data : String) : String :=
  before ++ " " ++ String.ofList [openBrace] ++ data ++ String.ofList [closeBrace]

/-- Lines of 95_test_vectors.md with their words. -/
theorem test_assemble_name : assemble "MF_SET_DEST WIRED_CONTROLLER" = .ok (0x2006, 0) := by rfl
theorem test_assemble_view : assemble "SET_MODE c, COOL ; reply" = .ok (0x03A3, 0) := by rfl
theorem test_assemble_hex : assemble "SET_TEMP c, 0x14" = .ok (0x14A9, 0) := by rfl
theorem test_assemble_getter : assemble "GET_ENABLED m" = .ok (0x0020, 0) := by rfl

/-- V-M1's and V-C8's operands: frame byte 0 on lane 0, lanes a payload leaves out 0. -/
theorem test_assembleData :
    assemble (dataLine "MF_LOAD" "01 20 00 17 18 00 01 00") = .ok (0x0001, 0x0001001817002001) := by rfl
theorem test_assemblePayload :
    assemble (dataLine "CF_SET_PAYLOAD" "17 18 00 01 00") = .ok (0x0014, 0x0001001817) := by rfl

/-- W10 and the end of program P2: the bytes on the line are the complements (R45). -/
theorem test_wire : wireOfFrame frameS = [0xFE, 0xDF, 0xFF, 0xE8, 0xE7, 0xFF, 0xFE, 0xFF] ∧
    wireOfFrame #v[0x20, 0x20, 0x00, 0x0A, 0x14, 0x00, 0x00, 0x00] =
      [0xDF, 0xDF, 0xFF, 0xF5, 0xEB, 0xFF, 0xFF, 0xFF] := by decide

/-! ### Witnesses: states and operands that meet the hypotheses of each statement -/

/-- The default parameters are legal. -/
theorem legal_default : LegalParams defaultParams := (legalParams_iff _).2 rfl

/-- Parameters that break conditions 1, 2, 3 and 4 of R7, one each. -/
theorem illegal_params :
    ¬ LegalParams { defaultParams with destLo := 2 } ∧ ¬ LegalParams { defaultParams with unkBit := 6 } ∧
    ¬ LegalParams { defaultParams with writeBit := 4 } ∧
    ¬ LegalParams { defaultParams with controllerAddress := 256 } := by
  simp only [legalParams_iff]; decide

/-- A state before one command. -/
def before (w : CmdWord) (d : DataWord) (s : State) : State := { s with inputs := [.command w d] }

theorem witness_EncodeOfDecodeIsTheWord :
    decode 0x0106 = .ok (.mfSetDest 1) := by decide

/-- A selected word and one that no row selects. -/
theorem witness_DecoderFollowsTheOpcodeTable :
    decode 0x1BA9 = .ok (.setTemp .controller 27) ∧
      OpcodeRow.mk "SET_TEMP" 0x007F 0x0029 ∈ opcodeRows ∧ (0x1BA9 : CmdWord) &&& 0x007F = 0x0029 ∧
      ∀ r ∈ opcodeRows, (0x0042 : CmdWord) &&& r.mask ≠ r.value := by decide

theorem witness_AssembledLinesAreCommands :
    assemble "CF_SET_QUERY LOGIN" = .ok (0x021B, 0) := by decide

theorem witness_StepRunsTheDecodedCommand :
    LegalParams State.reset.params ∧ (before 0x0010 5 State.reset).inputs = .command 0x0010 5 :: [] ∧
      decode 0x0010 = .ok .cfDefault := ⟨legal_default, rfl, by decide⟩

theorem witness_EveryCommandIsAnswered :
    LegalParams (before 0xFFFF 5 State.reset).params ∧
      (before 0xFFFF 5 State.reset).inputs = .command 0xFFFF 5 :: [] := ⟨legal_default, rfl⟩

theorem witness_IllegalParametersAreRefused :
    LegalParams State.reset.params ∧ ¬ LegalParams { defaultParams with destLo := 2 } ∧
      ¬ LegalParams { defaultParams with unkBit := 6 } ∧ ¬ LegalParams { defaultParams with writeBit := 4 } ∧
      ¬ LegalParams { defaultParams with controllerAddress := 256 } := ⟨legal_default, illegal_params⟩

theorem witness_ResetClearsBothFrames :
    LegalParams { block (some frameS) none with inputs := [.reset] }.params ∧
      { block (some frameS) none with inputs := [.reset] }.inputs = .reset :: [] := ⟨legal_default, rfl⟩

theorem witness_IdleStepKeepsTheBlock :
    LegalParams (block (some frameS) none).params ∧ (block (some frameS) none).inputs = [] := ⟨legal_default, rfl⟩

theorem witness_LaterInputsDoNotMatter :
    step { block (some frameS) none with inputs := .reset :: [.reset] } =
      .next { State.reset with inputs := [.reset] } := rfl

/-- Both alternatives: a command without data, and payloads that differ on lane 5 and above only. -/
theorem witness_UnreadDataLanesAreIgnored :
    (Instr.cfDefault ≠ .mfLoad ∧ Instr.cfDefault ≠ .mfEq ∧ Instr.cfDefault ≠ .cfLoad ∧
      Instr.cfDefault ≠ .cfEq ∧ Instr.cfDefault ≠ .cfSetPayload) ∧
      ∀ k : Fin 8, k.val < 5 → laneOf 0x0000001122334455 k = laneOf 0xFFFFFF1122334455 k := by decide

/-- At the edges of the map: OP 0x33 and 0x34, T = 1 with OP 0x1B and 0x20. -/
theorem witness_IllegalCommandExactlyWhenNoRowMatches :
    LegalParams State.reset.params ∧ (before 0x0034 0 State.reset).inputs = .command 0x0034 0 :: [] ∧
      status 0x0034 State.reset = some .illegalCommand ∧ status 0x0033 State.reset = some .noFrame ∧
      status 0x009B State.reset = some .illegalCommand ∧ status 0x00A0 State.reset = some .noFrame := ⟨legal_default, rfl, by decide⟩

theorem witness_IllegalOperandExactlyOutsideTheLegalSet :
    sets (.setTemp .controller 128) = some (.controller, .temperature, 128) ∧
      ¬ Field.Legal 128 .temperature ∧ Field.Legal 127 .temperature ∧ sets .cfDefault = none := by simp [sets, Field.Legal]

theorem witness_NoFrameExactlyWhenTheFrameIsAbsent :
    needs (.setTemp .master 127) = some .master ∧ Field.Legal 127 .temperature ∧
      State.reset.mfValid = false ∧ needs .cfSetPayload = some .controller ∧ State.reset.cfValid = false ∧
      needs .cfLoad = none := by simp [needs, sets, readsOnly, Field.Legal, State.mfValid, State.cfValid]

theorem witness_ErrorsAreCheckedInOrder :
    LegalParams State.reset.params ∧ decode 0x0034 = .error .unassignedOp ∧
      decode 0x06A3 = .ok (.setMode .controller 6) ∧ ¬ Field.Legal 6 .mode ∧
      decode 0x05A3 = .ok (.setMode .controller 5) ∧ Field.Legal 5 .mode ∧
      needs (.setMode .controller 5) = some .controller ∧ State.reset.frameOf .controller = none ∧
      (block none (some frameD)).frameOf .controller = some frameD := ⟨legal_default, by decide, by decide, by simp [Field.Legal], by decide, by simp [Field.Legal], rfl, rfl, rfl⟩

theorem witness_FailedCommandLeavesNoTrace :
    step (before 0x0000 7 State.reset) =
        .next { State.reset with din64 := 7, response := some { status := .illegalCommand } } ∧
      Status.illegalCommand ≠ .ok := ⟨rfl, by decide⟩

theorem witness_WireContentNeverCausesAnError :
    readsOnly .mfGetDest = some .master ∧ (masterWith 0x21 0).frameOf .master =
      some #v[0x01, 0x21, 0, 0x17, 0x18, 0, 1, 0] := ⟨rfl, rfl⟩

theorem witness_ReadsHaveNoSideEffect :
    readsOnly .mfRead = some .master ∧ readsOnly (.getFan .controller) = some .controller := ⟨rfl, rfl⟩

/-- All four changes of a validity bit. -/
theorem witness_ValidityChangesOnlyByLoadsAndReset :
    (step (before 0x0001 0 State.reset) = .next { block (some (Vector.replicate 8 0)) none with response := some {} } ∧
        State.reset.mfValid = false ∧ (block (some (Vector.replicate 8 0)) none).mfValid = true) ∧
      (step (before 0x0010 0 State.reset) = .next { block none (some frameD) with response := some {} } ∧
        State.reset.cfValid = false ∧ (block none (some frameD)).cfValid = true) ∧
      step { block (some frameS) (some frameD) with inputs := [.reset] } = .next State.reset ∧
        (block (some frameS) (some frameD)).mfValid = true ∧ (block (some frameS) (some frameD)).cfValid = true := ⟨⟨rfl, rfl, rfl⟩, ⟨rfl, rfl, rfl⟩, rfl, rfl, rfl⟩

theorem witness_MasterUnnamedBitsChangeOnlyByLoad :
    step (before 0x0106 0 (block (some frameS) none)) =
        .next { block (some #v[0x01, 0x01, 0x00, 0x17, 0x18, 0x00, 0x01, 0x00]) none with response := some {} } ∧
      ∀ d rest, (before 0x0106 0 (block (some frameS) none)).inputs ≠ .command 0x0001 d :: rest := ⟨rfl, by simp [before]⟩

theorem witness_CanonicalHeaderIsKept :
    CanonicalHeader (before 0x0010 0 State.reset) ∧
      step (before 0x0010 0 State.reset) = .next { block none (some frameD) with response := some {} } := ⟨⟨by simp [before], by simp [before]⟩, rfl⟩

theorem witness_SoundnessIsKept :
    Sound (before 0x0010 0 State.reset) ∧
      step (before 0x0010 0 State.reset) = .next { block none (some frameD) with response := some {} } := ⟨⟨legal_default, by simp [before]⟩, rfl⟩

theorem witness_ViewWritesAreSeenInTheFrame :
    sets (.setFan .master 5) = some (.master, .fan, 5) ∧ viewTarget (.setFan .master 5) = some .master ∧
      Field.Legal 5 .fan ∧ (block (some frameS) none).frameOf .master = some frameS := ⟨rfl, rfl, by simp [Field.Legal], rfl⟩

theorem witness_ViewCommandsUseOnlyTheSelectedFrame :
    viewTarget (.getMode .master) = some .master ∧ sets (.getMode .master) = none ∧
      (block none (some frameD)).frameOf .master = none ∧ (Target.controller ≠ .master) ∧
      (block (some frameS) none).frameOf .master = some frameS := ⟨rfl, rfl, rfl, by decide, rfl⟩

theorem witness_ViewIgnoresTheRegisterType :
    viewTarget (.getMode .master) = some .master ∧ ∀ k : Fin 8, 3 ≤ k.val →
      (#v[0, 0, 0x20, 7, 0, 0, 0, 0] : Frame)[k] = (#v[0, 0, 0x10, 7, 0, 0, 0, 0] : Frame)[k] := ⟨rfl, by decide⟩

theorem witness_SettersChangeOnlyTheirField :
    sets (.setTemp .master 30) = some (.master, .temperature, 30) ∧
      exec (.setTemp .master 30) (block (some frameS) (some frameD)) =
        .next { block (some #v[0x01, 0x20, 0x00, 0x17, 0x1E, 0x00, 0x01, 0x00]) (some frameD) with
          response := some {} } := ⟨rfl, rfl⟩

/-- Between the setter and the getter: another field, an illegal word, another payload's frame. -/
def midCommands : List (CmdWord × DataWord) := [(0x01A5, 0), (0x0042, 9), (0x0001, 5)]

/-- The host presents SET_MODE c, 5; the commands between; GET_MODE c. -/
def setThenGet : State :=
  { block none (some frameD) with
    inputs := .command (encode (.setMode .controller 5)) 0 ::
      (midCommands.map (fun m => Input.command m.1 m.2) ++ .command (encode (.getMode .controller)) 3 :: []) }

theorem witness_GetterReturnsTheWrittenValue :
    LegalParams setThenGet.params ∧ sets (.setMode .controller 5) = some (.controller, .mode, 5) ∧
      Field.Legal 5 .mode ∧ setThenGet.frameOf .controller = some frameD ∧
      (∀ m ∈ midCommands, ∀ j, decode m.1 = .ok j → Spares .controller .mode j) ∧
      setThenGet.inputs = .command (encode (.setMode .controller 5)) 0 ::
        (midCommands.map (fun m => Input.command m.1 m.2) ++
          .command (encode (Field.mode.getter .controller)) 3 :: []) := by
  refine ⟨legal_default, rfl, by simp [Field.Legal], rfl, ?_, rfl⟩
  intro m hm j hj
  simp only [midCommands, List.mem_cons, List.not_mem_nil, or_false] at hm
  obtain rfl | rfl | rfl := hm
  · have h : decode 0x01A5 = .ok (.setFan .controller 1) := by decide
    rw [h] at hj; cases hj; simp [Spares, sets]
  · have h : decode 0x0042 = .error .reservedBit := by decide
    rw [h] at hj; cases hj
  · have h : decode 0x0001 = .ok .mfLoad := by decide
    rw [h] at hj; cases hj; simp [Spares, sets]

/-- CF with fan speed 3, and the host about to present SET_MODE c, 5, an illegal word and MF_LOAD. -/
def fanHeld : State :=
  { block none (some #v[0x20, 0, 0, 0x30, 0, 0, 0, 0]) with
    inputs := [.command 0x05A3 0, .command 0x0042 9, .command 0x0001 5] }

/-- The three words of `fanHeld` spare the fan speed of CF. -/
theorem fanHeld_spares : ∀ w d, Input.command w d ∈ fanHeld.inputs → ∀ j, decode w = .ok j →
    Spares .controller .fan j := by
  intro w d hm j hj
  simp only [fanHeld, List.mem_cons, Input.command.injEq, List.not_mem_nil, or_false] at hm
  obtain ⟨rfl, -⟩ | ⟨rfl, -⟩ | ⟨rfl, -⟩ := hm
  · have h : decode 0x05A3 = .ok (.setMode .controller 5) := by decide
    rw [h] at hj; cases hj; simp [Spares, sets]
  · have h : decode 0x0042 = .error .reservedBit := by decide
    rw [h] at hj; cases hj
  · have h : decode 0x0001 = .ok .mfLoad := by decide
    rw [h] at hj; cases hj; simp [Spares, sets]

/-- A field with a setter, held while a setter of another field, an illegal word and MF_LOAD come. -/
theorem witness_SparedFieldIsKept :
    sets (.setFan .controller 3) = some (.controller, .fan, 3) ∧
      SparedFieldHolds .controller .fan 3 fanHeld ∧ ∃ u, step fanHeld = .next u := ⟨rfl, ⟨legal_default, by simp [fanHeld], fanHeld_spares, _, rfl, by decide⟩, _, rfl⟩

theorem witness_SetterEstablishesTheFieldsValue :
    LegalParams fanHeld.params ∧ sets (.setFan .controller 5) = some (.controller, .fan, 5) ∧
      Field.Legal 5 .fan ∧ (∃ f, fanHeld.frameOf .controller = some f) ∧
      { fanHeld with inputs := .command (encode (.setFan .controller 5)) 0 :: fanHeld.inputs }.inputs =
        .command (encode (.setFan .controller 5)) 0 :: fanHeld.inputs ∧
      Input.reset ∉ fanHeld.inputs ∧ ∀ w e, Input.command w e ∈ fanHeld.inputs → ∀ j, decode w = .ok j →
        Spares .controller .fan j := ⟨legal_default, rfl, by simp [Field.Legal], ⟨_, rfl⟩, rfl, by simp [fanHeld], fanHeld_spares⟩

/-- Different fields, and the same field with a legal later immediate. -/
theorem witness_SettersCommute :
    LegalParams State.reset.params ∧ sets (.setMode .master 1) = some (.master, .mode, 1) ∧
      sets (.setFan .master 5) = some (.master, .fan, 5) ∧
      (Target.master, Field.mode) ≠ (Target.master, Field.fan) ∧
      sets (.setMode .master 5) = some (.master, .mode, 5) ∧ Field.Legal 5 .mode := ⟨legal_default, rfl, rfl, by decide, rfl, by simp [Field.Legal]⟩

theorem witness_WireBytesAreComplementedInOrder :
    ([1, 2, 3, 4, 5, 6, 7] : List Byte).length ≠ 8 ∧ ([] : List Byte).length ≠ 8 := by decide

/-- Both frames absent, and both present: the two cases of a command that needs a frame. -/
theorem both_cases (t : Target) : State.reset.frameOf t = none ∧
    ∃ f, (block (some frameS) (some frameD)).frameOf t = some f := by
  cases t <;> exact ⟨rfl, _, rfl⟩

theorem witness_MfReadReturnsTheWholeFrame :
    State.reset.frameOf .master = none ∧ ∃ f, (block (some frameS) (some frameD)).frameOf .master = some f := both_cases _

theorem witness_MfGetPayloadReturnsBytesThreeToSeven :
    State.reset.frameOf .master = none ∧ ∃ f, (block (some frameS) (some frameD)).frameOf .master = some f := both_cases _

theorem witness_CfReadReturnsTheWholeFrame :
    State.reset.frameOf .controller = none ∧ ∃ f, (block (some frameS) (some frameD)).frameOf .controller = some f := both_cases _

theorem witness_CfGetPayloadReturnsBytesThreeToSeven :
    State.reset.frameOf .controller = none ∧ ∃ f, (block (some frameS) (some frameD)).frameOf .controller = some f := both_cases _

/-- Absent, equal, and different in the top bit only. -/
theorem witness_MfEqComparesEveryByte :
    State.reset.frameOf .master = none ∧ (block (some frameS) (some frameD)).frameOf .master = some frameS ∧
      (∀ k : Fin 8, frameS[k] = laneOf 0x0001001817002001 k) ∧
      ∃ k : Fin 8, frameS[k] ≠ laneOf 0x8001001817002001 k := by decide

/-- Absent, equal, and different in the top bit only. -/
theorem witness_CfEqComparesEveryByte :
    State.reset.frameOf .controller = none ∧ (block (some frameS) (some frameD)).frameOf .controller = some frameD ∧
      (∀ k : Fin 8, frameD[k] = laneOf 0x20 k) ∧
      ∃ k : Fin 8, frameD[k] ≠ laneOf 0x8000000000000020 k := by decide

theorem witness_CfSetPayloadWritesBytesThreeToSeven :
    State.reset.cf = none ∧ (block none (some frameD)).cf = some frameD := ⟨rfl, rfl⟩

theorem witness_MfGetDestDecodesTheDestination :
    State.reset.frameOf .master = none ∧ (masterWith 0x20 0).frameOf .master =
        some #v[0x01, 0x20, 0, 0x17, 0x18, 0, 1, 0] ∧
      fieldNum 0x20 0 7 = 32 ∧ fieldNum 0xA1 0 7 = 33 ∧ fieldNum 0x81 0 7 = 1 ∧ fieldNum 0x80 0 7 = 0 := by decide

theorem witness_MfSetDestWritesTheDestination :
    (((0 : Byte) = 0 ∨ (0 : Byte) = 1 ∨ (0 : Byte) = 32) ∧ ((1 : Byte) = 0 ∨ (1 : Byte) = 1 ∨ (1 : Byte) = 32) ∧ ((32 : Byte) = 0 ∨ (32 : Byte) = 1 ∨ (32 : Byte) = 32)) ∧ ¬ ((31 : Byte) = 0 ∨ (31 : Byte) = 1 ∨ (31 : Byte) = 32) ∧ ¬ ((33 : Byte) = 0 ∨ (33 : Byte) = 1 ∨ (33 : Byte) = 32) ∧ State.reset.frameOf .master = none ∧
      ∃ f, (block (some frameS) (some frameD)).frameOf .master = some f := ⟨by decide, by decide, by decide, both_cases _⟩

theorem witness_HeaderBitSettersWriteTheirBit :
    (((0 : Byte).toNat ≤ 1) ∧ ((1 : Byte).toNat ≤ 1)) ∧ ¬ ((2 : Byte).toNat ≤ 1) ∧ ¬ ((255 : Byte).toNat ≤ 1) ∧ State.reset.frameOf .controller = none ∧
      ∃ f, (block (some frameS) (some frameD)).frameOf .controller = some f := ⟨by decide, by decide, by decide, both_cases _⟩

theorem witness_RegisterTypesAreWritten :
    (((0 : Byte).toNat ≤ 3) ∧ ((3 : Byte).toNat ≤ 3)) ∧ ¬ ((4 : Byte).toNat ≤ 3) ∧ ¬ ((255 : Byte).toNat ≤ 3) ∧ State.reset.frameOf .controller = none ∧
      ∃ f, (block (some frameS) (some frameD)).frameOf .controller = some f := ⟨by decide, by decide, by decide, both_cases _⟩

theorem witness_ViewFlagSettersWriteTheirBit :
    (((0 : Byte).toNat ≤ 1) ∧ ((1 : Byte).toNat ≤ 1)) ∧ ¬ ((2 : Byte).toNat ≤ 1) ∧ ¬ ((255 : Byte).toNat ≤ 1) ∧ State.reset.frameOf .controller = none ∧
      ∃ f, (block (some frameS) (some frameD)).frameOf .controller = some f := ⟨by decide, by decide, by decide, both_cases _⟩

theorem witness_SetModeWritesTheMode :
    (((0 : Byte).toNat ≤ 5) ∧ ((5 : Byte).toNat ≤ 5)) ∧ ¬ ((6 : Byte).toNat ≤ 5) ∧ ¬ ((255 : Byte).toNat ≤ 5) ∧ State.reset.frameOf .controller = none ∧
      ∃ f, (block (some frameS) (some frameD)).frameOf .controller = some f := ⟨by decide, by decide, by decide, both_cases _⟩

theorem witness_SetFanWritesTheFan :
    (((0 : Byte).toNat ≤ 5) ∧ ((5 : Byte).toNat ≤ 5)) ∧ ¬ ((6 : Byte).toNat ≤ 5) ∧ ¬ ((255 : Byte).toNat ≤ 5) ∧ State.reset.frameOf .controller = none ∧
      ∃ f, (block (some frameS) (some frameD)).frameOf .controller = some f := ⟨by decide, by decide, by decide, both_cases _⟩

theorem witness_SetTempWritesTheTemperature :
    (((0 : Byte).toNat ≤ 127) ∧ ((127 : Byte).toNat ≤ 127)) ∧ ¬ ((128 : Byte).toNat ≤ 127) ∧ ¬ ((255 : Byte).toNat ≤ 127) ∧ State.reset.frameOf .controller = none ∧
      ∃ f, (block (some frameS) (some frameD)).frameOf .controller = some f := ⟨by decide, by decide, by decide, both_cases _⟩

theorem witness_SetMagicWritesUpdateMagic :
    (((0 : Byte).toNat ≤ 15) ∧ ((15 : Byte).toNat ≤ 15)) ∧ ¬ ((16 : Byte).toNat ≤ 15) ∧ ¬ ((255 : Byte).toNat ≤ 15) ∧ State.reset.frameOf .controller = none ∧
      ∃ f, (block (some frameS) (some frameD)).frameOf .controller = some f := ⟨by decide, by decide, by decide, both_cases _⟩

theorem witness_HeaderBitGettersReadTheirBit :
    ∀ t, State.reset.frameOf t = none ∧ ∃ f, (block (some frameS) (some frameD)).frameOf t = some f := both_cases

theorem witness_RegisterTypesAreDecoded :
    ∀ t, State.reset.frameOf t = none ∧ ∃ f, (block (some frameS) (some frameD)).frameOf t = some f := both_cases

theorem witness_ViewFlagGettersReadTheirBit :
    ∀ t, State.reset.frameOf t = none ∧ ∃ f, (block (some frameS) (some frameD)).frameOf t = some f := both_cases

theorem witness_TemperatureAndMagicAreReadRaw :
    ∀ t, State.reset.frameOf t = none ∧ ∃ f, (block (some frameS) (some frameD)).frameOf t = some f := both_cases

/-- Codes on both sides of 1 and of 5. -/
theorem witness_GetModeDecodesTheMode :
    (∀ t, State.reset.frameOf t = none ∧ ∃ f, (block (some frameS) (some frameD)).frameOf t = some f) ∧
      fieldNum 0xF1 1 3 = 0 ∧ fieldNum 0xF3 1 3 = 1 ∧ fieldNum 0xFB 1 3 = 5 ∧ fieldNum 0xFD 1 3 = 6 := ⟨both_cases, by decide⟩

/-- Codes on both sides of 4. -/
theorem witness_GetFanDecodesTheFan :
    (∀ t, State.reset.frameOf t = none ∧ ∃ f, (block (some frameS) (some frameD)).frameOf t = some f) ∧
      fieldNum 0xCF 4 3 = 4 ∧ fieldNum 0xDF 4 3 = 5 ∧ fieldNum 0xFF 4 3 = 7 := ⟨both_cases, by decide⟩

end Sys2Proof.Tests
end

/-! PROOFS of the statements of 00_scope.md: when a step answers and when it is refused (R7), and the
state after reset (R6, R330). -/

namespace Sys2Proof.Scope

open Machine Rules

/-! ### Every command answers a next state (R28) -/

/-- A frame check answers a next state if what the command does with the frame does. -/
theorem needFrame_isNext (t : Target) (s : State) (k : Frame → Result) (hk : ∀ f, ∃ u, k f = .next u) :
    ∃ u, needFrame t s k = .next u := by
  cases hf : s.frameOf t with
  | none => exact ⟨_, needFrame_none hf k⟩
  | some f => rw [needFrame_some hf]; exact hk f

/-- No command faults or refuses, in any state. -/
theorem exec_isNext (i : Instr) (s : State) : ∃ u, exec i s = .next u := by
  obtain ⟨t, hread⟩ | ⟨t, fld, v, hset⟩ | rfl | rfl | rfl | rfl := instr_kinds i
  · obtain ⟨g, -, -, hexec⟩ := exec_reader hread
    rw [hexec]
    exact needFrame_isNext t s _ fun _ => ⟨_, rfl⟩
  · obtain ⟨-, h⟩ | ⟨-, -, h⟩ | ⟨f, -, -, h⟩ := exec_setter_cases hset s <;> exact ⟨_, h⟩
  · exact ⟨_, construct_eq .master (frameOfLanes s.din64) s⟩
  · exact ⟨_, construct_eq .controller (canonicalDefault s.params) s⟩
  · exact ⟨_, construct_eq .controller (frameOfLanes s.din64) s⟩
  · obtain ⟨-, h⟩ | ⟨f, -, h⟩ := exec_cfSetPayload_cases s <;> exact ⟨_, h⟩

/-- Every word answers a next state: a word that does not decode ends with ILLEGAL_COMMAND (R302). -/
theorem runCommand_isNext (w : CmdWord) (s : State) : ∃ u, runCommand w s = .next u := by
  unfold runCommand
  split
  · next i _ => exact exec_isNext i s
  · exact ⟨_, raise_eq .illegalCommand s⟩

/-! ### The two sides of R7 -/

/-- A step with no input presented, under legal parameters. -/
theorem step_idle {s : State} (hp : LegalParams s.params) (hin : s.inputs = []) : step s = idle s := by
  rw [step, if_pos ((legalParams_iff _).1 hp), hin]

/-- A step on the reset event, under legal parameters. -/
theorem step_reset {s : State} (hp : LegalParams s.params) {rest : List Input}
    (hin : s.inputs = .reset :: rest) : step s = takeReset rest s := by
  rw [step, if_pos ((legalParams_iff _).1 hp), hin]

/-- Under legal parameters a step answers, whichever of the three inputs comes next. -/
theorem step_isNext_of_legal {s : State} (hp : LegalParams s.params) : ∃ u, step s = .next u := by
  cases hin : s.inputs with
  | nil => exact ⟨_, step_idle hp hin⟩
  | cons input rest =>
    cases input with
    | command w d => rw [step_command hp hin]; exact runCommand_isNext w (present d rest s)
    | reset => exact ⟨_, step_reset hp hin⟩

/-- A step under parameters that break a condition of R7 is refused, whatever comes next. -/
theorem step_refused_of_illegal {s : State} (hp : ¬ LegalParams s.params) :
    step s = .refused .illegalParameters := by
  rw [step, if_neg (mt (legalParams_iff _).2 hp)]

/-- Settles O8: the check of `step` is R7's, and behind it every input is answered. -/
theorem illegalParametersAreRefused : Obligations.IllegalParametersAreRefused := fun _ =>
  ⟨step_isNext_of_legal, step_refused_of_illegal, rfl, rfl, rfl, rfl, rfl, rfl⟩

/-! ### The state after reset -/

theorem legalParams_reset : LegalParams State.reset.params := (legalParams_iff _).2 (by decide)

/-- There is no response after reset (R32), so no output that could be unclean. -/
theorem sound_reset : Sound State.reset :=
  ⟨legalParams_reset, fun r hr => by simp at hr⟩

/-- Nothing is presented after reset and no controller frame is constructed (R330). -/
theorem canonicalHeader_reset : CanonicalHeader State.reset :=
  ⟨fun din => by simp, fun f hf => by simp at hf⟩

/-- Settles O25: the defaults of R6 and the two invariants, one by one. -/
theorem invariantsHoldAtReset : Obligations.InvariantsHoldAtReset :=
  ⟨⟨rfl, rfl, rfl, rfl, rfl, rfl, rfl⟩, sound_reset, canonicalHeader_reset⟩

end Sys2Proof.Scope

/-! PROOFS of the statements of 10_state.md: which command a step runs (R28), what it leaves of the state,
and when a validity bit changes (R22, R23). -/

namespace Sys2Proof.BlockState

open Machine Rules Scope

/-! ### The only word of a command (R75) -/

/-- The command words of a row's shape, at the opcode `op`, are the encodings of its commands. -/
def EncodesShape (op : BitVec 6) : Shape → Prop
  | .frame i => encode i = cmdWord 0 false op
  | .frameImm f => ∀ imm, encode (f imm) = cmdWord imm false op
  | .viewGet f => ∀ t, encode (f t) = cmdWord 0 (targetBit t) op
  | .viewSet f => ∀ t imm, encode (f t imm) = cmdWord imm (targetBit t) op

/-- The encoder and the opcode map agree on every assigned opcode (R74). -/
theorem encodesShape_of_shapeOf {n : Nat} {sh : Shape} (h : shapeOf n = some sh) :
    EncodesShape (BitVec.ofNat 6 n) sh := by
  unfold shapeOf at h
  split at h <;> cases h <;> simp [EncodesShape, encode]

/-- A word that decodes to a command is that command's encoding. -/
theorem encode_of_decode {w : CmdWord} {i : Instr} (h : decode w = .ok i) : encode i = w := by
  obtain ⟨hrsv, hshape⟩ := decode_ok_cases h
  have hw := cmdWord_fields w hrsv
  have hmap {sh : Shape} (hs : shapeOf (opField w).toNat = some sh) : EncodesShape (opField w) sh := by
    simpa using encodesShape_of_shapeOf hs
  obtain ⟨hs, ht, himm⟩ | ⟨f, hs, ht, rfl⟩ | ⟨f, hs, himm, rfl⟩ | ⟨f, hs, rfl⟩ := hshape
  · rw [ht, himm] at hw
    exact (hmap hs).trans hw
  · rw [ht] at hw
    exact (hmap hs _).trans hw
  · rw [himm] at hw
    exact (hmap hs _).trans (by rw [targetBit_targetOf, hw])
  · exact (hmap hs _ _).trans (by rw [targetBit_targetOf, hw])

/-! ### The constructors (R22, R23) -/

/-- The frame register a command constructs whether or not it was valid; none for all but three. -/
def builds : Instr → Option Target
  | .mfLoad => some .master
  | .cfDefault | .cfLoad => some .controller
  | _ => none

theorem eq_mfLoad_of_builds {i : Instr} (h : builds i = some .master) : i = .mfLoad := by
  cases i <;> simp [builds] at h ⊢

theorem eq_cfDefault_or_cfLoad_of_builds {i : Instr} (h : builds i = some .controller) :
    i = .cfDefault ∨ i = .cfLoad := by
  cases i <;> simp [builds] at h ⊢

/-- The frame register that a command word constructs; none for a word that does not decode. -/
def wordBuilds (w : CmdWord) : Option Target :=
  match decode w with
  | .ok i => builds i
  | .error _ => none

theorem wordBuilds_of_decode {w : CmdWord} {i : Instr} (h : decode w = .ok i) :
    wordBuilds w = builds i := by
  simp only [wordBuilds, h]

theorem exists_decode_of_wordBuilds {w : CmdWord} {t : Target} (h : wordBuilds w = some t) :
    ∃ i, decode w = .ok i ∧ builds i = some t := by
  cases hd : decode w with
  | ok i => exact ⟨i, rfl, (wordBuilds_of_decode hd).symm.trans h⟩
  | error e => simp [wordBuilds, hd] at h

/-- The one word that constructs the master frame is MF_LOAD's. -/
theorem eq_of_wordBuilds_master {w : CmdWord} (h : wordBuilds w = some .master) : w = 0x0001 := by
  obtain ⟨i, hd, hb⟩ := exists_decode_of_wordBuilds h
  obtain rfl := eq_mfLoad_of_builds hb
  exact (encode_of_decode hd).symm

/-- The two words that construct the controller frame are CF_DEFAULT's and CF_LOAD's. -/
theorem eq_of_wordBuilds_controller {w : CmdWord} (h : wordBuilds w = some .controller) :
    w = 0x0010 ∨ w = 0x0011 := by
  obtain ⟨i, hd, hb⟩ := exists_decode_of_wordBuilds h
  obtain rfl | rfl := eq_cfDefault_or_cfLoad_of_builds hb
  · exact .inl (encode_of_decode hd).symm
  · exact .inr (encode_of_decode hd).symm

/-! ### What a command leaves of the state -/

/-- `u` is `s` with a clean response and at most one frame register written, which was valid before or
is the one in `built`. -/
def Effect (built : Option Target) (s u : State) : Prop :=
  ∃ r, CleanResponse r ∧
    (u = s.answer r ∨
      ∃ t f, ((s.frameOf t).isSome = true ∨ built = some t) ∧ u = (s.withFrame t f).answer r)

/-- A response that carries a status alone is clean (R301). -/
theorem cleanResponse_status (st : Status) : CleanResponse { status := st } := by
  simp [CleanResponse]

section
variable {built : Option Target} {s u : State}

theorem Effect.of_answer {r : Response} (hr : CleanResponse r) : Effect built s (s.answer r) :=
  ⟨r, hr, .inl rfl⟩

theorem Effect.of_status (st : Status) : Effect built s (s.answer { status := st }) :=
  .of_answer (cleanResponse_status st)

theorem Effect.of_edit {t : Target} {f : Frame} (hf : s.frameOf t = some f) (f' : Frame) :
    Effect built s ((s.withFrame t f').answer {}) :=
  ⟨{}, cleanResponse_status .ok, .inr ⟨t, f', .inl (by simp [hf]), rfl⟩⟩

theorem Effect.of_construct (t : Target) (f : Frame) : Effect (some t) s ((s.withFrame t f).answer {}) :=
  ⟨{}, cleanResponse_status .ok, .inr ⟨t, f, .inr rfl, rfl⟩⟩

theorem Effect.params (h : Effect built s u) : u.params = s.params := by
  obtain ⟨r, -, rfl | ⟨t, f, -, rfl⟩⟩ := h <;> simp

theorem Effect.inputs (h : Effect built s u) : u.inputs = s.inputs := by
  obtain ⟨r, -, rfl | ⟨t, f, -, rfl⟩⟩ := h <;> simp

theorem Effect.response (h : Effect built s u) : ∃ r, CleanResponse r ∧ u.response = some r := by
  obtain ⟨r, hr, rfl | ⟨t, f, -, rfl⟩⟩ := h <;> exact ⟨r, hr, rfl⟩

/-- No command clears a validity bit (R22, R23). -/
theorem Effect.frameOf_isSome (h : Effect built s u) {t : Target} (ht : (s.frameOf t).isSome = true) :
    (u.frameOf t).isSome = true := by
  obtain ⟨r, -, rfl | ⟨t', f, -, rfl⟩⟩ := h
  · simpa using ht
  · by_cases heq : t = t'
    · subst heq; simp
    · simpa [State.withFrame_frameOf_other s f heq] using ht

/-- A validity bit that goes from 0 to 1 is that of the constructed frame (R22, R23). -/
theorem Effect.built_of_frameOf (h : Effect built s u) {t : Target}
    (hs : (s.frameOf t).isSome = false) (hu : (u.frameOf t).isSome = true) : built = some t := by
  obtain ⟨r, -, rfl | ⟨t', f, hw, rfl⟩⟩ := h
  · simp [hs] at hu
  · by_cases heq : t = t'
    · subst heq; simpa [hs] using hw
    · simp [State.withFrame_frameOf_other s f heq, hs] at hu

end

/-- Every command answers, with that effect. -/
theorem exec_effect (i : Instr) (s : State) : ∃ u, exec i s = .next u ∧ Effect (builds i) s u := by
  obtain ⟨t, hread⟩ | ⟨t, fld, v, hset⟩ | rfl | rfl | rfl | rfl := instr_kinds i
  · obtain ⟨g, hclean, -, hexec⟩ := exec_reader hread
    rw [hexec]
    cases hf : s.frameOf t with
    | none => exact ⟨_, needFrame_none hf _, .of_status .noFrame⟩
    | some f => exact ⟨_, needFrame_some hf _, .of_answer (hclean s.params s.din64 f).2⟩
  · obtain ⟨-, h⟩ | ⟨-, -, h⟩ | ⟨f, -, hf, h⟩ := exec_setter_cases hset s
    · exact ⟨_, h, .of_status .illegalOperand⟩
    · exact ⟨_, h, .of_status .noFrame⟩
    · exact ⟨_, h, .of_edit hf _⟩
  · exact ⟨_, construct_eq .master _ s, .of_construct .master _⟩
  · exact ⟨_, construct_eq .controller _ s, .of_construct .controller _⟩
  · exact ⟨_, construct_eq .controller _ s, .of_construct .controller _⟩
  · obtain ⟨-, h⟩ | ⟨f, hf, h⟩ := exec_cfSetPayload_cases s
    · exact ⟨_, h, .of_status .noFrame⟩
    · exact ⟨_, h, .of_edit (t := .controller) hf _⟩

/-- The effect of running a command word, whether or not it decodes. -/
theorem runCommand_effect (w : CmdWord) (s : State) :
    ∃ u, runCommand w s = .next u ∧ Effect (wordBuilds w) s u := by
  cases hd : decode w with
  | ok i => simpa only [runCommand, hd, wordBuilds_of_decode hd] using exec_effect i s
  | error e => exact ⟨_, by simp only [runCommand, hd, raise_eq], .of_status .illegalCommand⟩

/-- A step with a command presented answers, with the effect of the word. -/
theorem step_command_effect {s : State} (hp : LegalParams s.params) {w : CmdWord} {d : DataWord}
    {rest : List Input} (hin : s.inputs = .command w d :: rest) :
    ∃ u, step s = .next u ∧ Effect (wordBuilds w) (present d rest s) u := by
  rw [step_command hp hin]
  exact runCommand_effect w _

/-- Whatever a step answers: the idle step, the reset event, or the effect of the presented word. -/
theorem step_effect {s u : State} (h : step s = .next u) :
    LegalParams s.params ∧
      ((s.inputs = [] ∧ u = { s with response := none }) ∨
        (∃ rest, s.inputs = .reset :: rest ∧
          u = { s with mf := none, cf := none, response := none, inputs := rest }) ∨
        ∃ w d rest, s.inputs = .command w d :: rest ∧ Effect (wordBuilds w) (present d rest s) u) := by
  obtain ⟨hl, hidle | hreset | ⟨w, d, rest, hin, -⟩⟩ := step_cases h
  · exact ⟨(legalParams_iff _).2 hl, .inl hidle⟩
  · exact ⟨(legalParams_iff _).2 hl, .inr (.inl hreset)⟩
  · have hp := (legalParams_iff _).2 hl
    obtain ⟨u', hu', heff⟩ := step_command_effect hp hin
    obtain rfl : u' = u := by simpa [hu'] using h
    exact ⟨hp, .inr (.inr ⟨w, d, rest, hin, heff⟩)⟩

/-! ### The step on a command (R28, R46) -/

/-- Settles O6: `step` takes the word, and `runCommand` runs what it decodes to. -/
theorem stepRunsTheDecodedCommand : Obligations.StepRunsTheDecodedCommand := by
  intro s w d rest i hp hin hd
  calc step s = runCommand w (present d rest s) := step_command hp hin
    _ = exec i (present d rest s) := by simp only [runCommand, hd]

/-- Settles O7: from the effect of the word on the state in which it is presented. -/
theorem everyCommandIsAnswered : Obligations.EveryCommandIsAnswered := by
  intro s w d rest hp hin
  obtain ⟨u, hu, heff⟩ := step_command_effect hp hin
  obtain ⟨r, -, hr⟩ := heff.response
  exact ⟨u, r, hu, hr, heff.inputs, heff.params⟩

/-! ### The stored response is never read (R29, R32) -/

/-- Two states that answer alike and hold the same frame pass the frame check alike. -/
theorem needFrame_congr {t : Target} {s s' : State} {k k' : Frame → Result}
    (hf : s.frameOf t = s'.frameOf t) (hr : raise .noFrame s = raise .noFrame s')
    (hk : ∀ f, k f = k' f) : needFrame t s k = needFrame t s' k' := by
  cases h : s'.frameOf t with
  | none => rw [needFrame_none h, needFrame_none (hf.trans h), hr]
  | some f => rw [needFrame_some h, needFrame_some (hf.trans h), hk]

section
variable (s : State) (r : Option Response)

theorem frameOf_withResponse (t : Target) : ({ s with response := r } : State).frameOf t = s.frameOf t := by
  cases t <;> rfl

/-- An answer replaces the response before it. -/
theorem answer_withResponse (r' : Response) : ({ s with response := r } : State).answer r' = s.answer r' := rfl

theorem withFrame_answer_withResponse (t : Target) (f : Frame) (r' : Response) :
    (({ s with response := r } : State).withFrame t f).answer r' = (s.withFrame t f).answer r' := by
  cases t <;> rfl

theorem editFrame_withResponse (t : Target) (edit : Frame → Frame) :
    editFrame t edit { s with response := r } = editFrame t edit s :=
  needFrame_congr (frameOf_withResponse s r t) rfl fun f =>
    congrArg _ (withFrame_answer_withResponse s r t (edit f) {})

theorem setField_withResponse (t : Target) (fp : FieldPos) (legal : Bool) (imm : Byte) :
    setField t fp legal imm { s with response := r } = setField t fp legal imm s := by
  cases legal with
  | false => rfl
  | true => exact editFrame_withResponse s r t _

/-- No command reads the response of an earlier one. -/
theorem exec_withResponse (i : Instr) : exec i { s with response := r } = exec i s := by
  obtain ⟨t, hread⟩ | ⟨t, fld, v, hset⟩ | rfl | rfl | rfl | rfl := instr_kinds i
  · obtain ⟨g, -, -, hexec⟩ := exec_reader hread
    rw [hexec, hexec]
    exact needFrame_congr (frameOf_withResponse s r t) rfl fun _ => rfl
  · obtain ⟨legal, -, hexec⟩ := exec_setter hset
    rw [hexec, hexec]
    exact setField_withResponse s r t _ legal v
  · rfl
  · rfl
  · rfl
  · exact editFrame_withResponse s r .controller _

theorem runCommand_withResponse (w : CmdWord) :
    runCommand w { s with response := r } = runCommand w s := by
  cases hd : decode w with
  | ok i => simpa only [runCommand, hd] using exec_withResponse s r i
  | error e => simp only [runCommand, hd, raise_eq, answer_withResponse]

end

/-- Settles O12: an idle step and the reset event drop the response, and no command reads it. -/
theorem earlierResponseIsNeverRead : Obligations.EarlierResponseIsNeverRead := by
  intro ⟨p, mf, cf, din, r₀, inputs⟩ r
  by_cases hp : LegalParams p
  · cases inputs with
    | nil => exact (step_idle hp rfl).trans (step_idle hp rfl).symm
    | cons input rest =>
      cases input with
      | reset => exact (step_reset hp rfl).trans (step_reset hp rfl).symm
      | command w d =>
        rw [step_command hp rfl, step_command hp rfl]
        exact runCommand_withResponse (present d rest ⟨p, mf, cf, din, r₀, _⟩) r w
  · exact (step_refused_of_illegal hp).trans (step_refused_of_illegal hp).symm

/-! ### The validity bits (R22, R23) -/

section
variable {s u : State} {t : Target}

/-- A step that makes a frame valid has run a word that constructs it. -/
theorem wordBuilds_of_step (h : step s = .next u) (hs : (s.frameOf t).isSome = false)
    (hu : (u.frameOf t).isSome = true) :
    ∃ w d rest, wordBuilds w = some t ∧ s.inputs = .command w d :: rest := by
  obtain ⟨-, ⟨-, rfl⟩ | ⟨rest, -, rfl⟩ | ⟨w, d, rest, hin, heff⟩⟩ := step_effect h
  · rw [frameOf_withResponse, hs] at hu
    cases hu
  · cases t <;> cases hu
  · exact ⟨w, d, rest, heff.built_of_frameOf (by simpa using hs) hu, hin⟩

/-- A step that makes a frame invalid has taken the reset event. -/
theorem reset_of_step (h : step s = .next u) (hs : (s.frameOf t).isSome = true)
    (hu : (u.frameOf t).isSome = false) : ∃ rest, s.inputs = .reset :: rest := by
  obtain ⟨-, ⟨-, rfl⟩ | ⟨rest, hin, -⟩ | ⟨w, d, rest, -, heff⟩⟩ := step_effect h
  · rw [frameOf_withResponse, hs] at hu
    cases hu
  · exact ⟨rest, hin⟩
  · rw [heff.frameOf_isSome (by simpa using hs)] at hu
    cases hu

end

/-- Settles O21: the two lemmas above at each target, with the words that construct it. -/
theorem validityChangesOnlyByLoadsAndReset : Obligations.ValidityChangesOnlyByLoadsAndReset := by
  intro s u h
  refine ⟨fun hs hu => ?_, reset_of_step (t := .master) h, fun hs hu => ?_,
    reset_of_step (t := .controller) h⟩
  · obtain ⟨w, d, rest, hw, hin⟩ := wordBuilds_of_step (t := .master) h hs hu
    obtain rfl := eq_of_wordBuilds_master hw
    exact ⟨d, rest, hin⟩
  · obtain ⟨w, d, rest, hw, hin⟩ := wordBuilds_of_step (t := .controller) h hs hu
    exact ⟨w, d, rest, eq_of_wordBuilds_controller hw, hin⟩

/-! ### Soundness (R7, R29, R301) -/

/-- Settles O24: an idle step and the reset event leave no response, a command leaves a clean one. -/
theorem soundnessIsKept : Obligations.SoundnessIsKept := by
  intro s u ⟨hp, _⟩ h
  obtain ⟨-, ⟨-, rfl⟩ | ⟨rest, -, rfl⟩ | ⟨w, d, rest, -, heff⟩⟩ := step_effect h
  · exact ⟨hp, fun r hr => by cases hr⟩
  · exact ⟨hp, fun r hr => by cases hr⟩
  · obtain ⟨r, hclean, hresp⟩ := heff.response
    refine ⟨by rw [heff.params]; exact hp, fun r' hr' => ?_⟩
    obtain rfl : r = r' := by simpa [hresp] using hr'
    exact hclean

end Sys2Proof.BlockState

/-! PROOFS of the statements of 20_memory.md: the bytes on the line (R41, R45, R54), the order of commands
(R50), repeated commands (R49), and what the frame reads show of a status-view write (R47). -/

namespace Sys2Proof.Memory

open Machine Rules Scope BlockState

/-! ### The bytes on the line (R41, R45, R54) -/

theorem wireOfFrame_length (f : Frame) : (wireOfFrame f).length = 8 := by
  rw [wireOfFrame, List.length_map, Vector.length_toList]

theorem wireOfFrame_getElem? (f : Frame) (k : Fin 8) : (wireOfFrame f)[k.val]? = some (f[k] ^^^ 0xFF) := by
  simp [wireOfFrame]

/-- Eight bytes carry the frame of their complements, in their order. -/
theorem frameOfWire_toList (v : Frame) : frameOfWire v.toList = some (v.map (· ^^^ 0xFF)) := by
  obtain ⟨⟨l⟩, hl⟩ := v
  match l, hl with
  | [b0, b1, b2, b3, b4, b5, b6, b7], _ => rfl

/-- Complementing a byte twice gives it back, so a frame comes through the line unchanged. -/
theorem frameOfWire_wireOfFrame (f : Frame) : frameOfWire (wireOfFrame f) = some f := by
  calc frameOfWire (wireOfFrame f)
    _ = frameOfWire (f.map (· ^^^ 0xFF)).toList := by rw [wireOfFrame, Vector.toList_map]
    _ = some ((f.map (· ^^^ 0xFF)).map (· ^^^ 0xFF)) := frameOfWire_toList _
    _ = some f := by simp [Function.comp_def]

/-- Only eight bytes carry a frame (R54). -/
theorem length_of_frameOfWire {bs : List Byte} {f : Frame} (h : frameOfWire bs = some f) :
    bs.length = 8 := by
  unfold frameOfWire at h
  split at h
  · rfl
  · cases h

/-- Settles O32: eight complemented bytes on the line, which alone carry the frame back. -/
theorem wireBytesAreComplementedInOrder : Obligations.WireBytesAreComplementedInOrder :=
  ⟨fun f => ⟨wireOfFrame_length f, wireOfFrame_getElem? f, frameOfWire_wireOfFrame f⟩,
    fun _ hlen => Option.eq_none_iff_forall_ne_some.2 fun _ h => hlen (length_of_frameOfWire h)⟩

/-! ### What comes later is not seen (R50) -/

/-- The same outcome, with other inputs waiting in the next state. -/
def withInputs (l : List Input) : Result → Result
  | .next u => .next { u with inputs := l }
  | .fault e => .fault e
  | .refused e => .refused e

section
variable (s : State) (l : List Input)

theorem raise_withInputs (st : Status) : raise st { s with inputs := l } = withInputs l (raise st s) := rfl

theorem needFrame_withInputs {t : Target} {k k' : Frame → Result} (hk : ∀ f, k' f = withInputs l (k f)) :
    needFrame t { s with inputs := l } k' = withInputs l (needFrame t s k) := by
  have hframe : ({ s with inputs := l } : State).frameOf t = s.frameOf t := by cases t <;> rfl
  cases hf : s.frameOf t with
  | none => rw [needFrame_none hf, needFrame_none (hframe.trans hf), raise_withInputs]
  | some f => rw [needFrame_some hf, needFrame_some (hframe.trans hf), hk]

theorem editFrame_withInputs (t : Target) (edit : Frame → Frame) :
    editFrame t edit { s with inputs := l } = withInputs l (editFrame t edit s) :=
  needFrame_withInputs s l fun _ => by cases t <;> rfl

theorem setField_withInputs (t : Target) (fp : FieldPos) (legal : Bool) (imm : Byte) :
    setField t fp legal imm { s with inputs := l } = withInputs l (setField t fp legal imm s) := by
  cases legal with
  | false => rfl
  | true => exact editFrame_withInputs s l t _

/-- No command reads or writes the inputs that wait behind it. -/
theorem exec_withInputs (i : Instr) : exec i { s with inputs := l } = withInputs l (exec i s) := by
  obtain ⟨t, hread⟩ | ⟨t, fld, v, hset⟩ | rfl | rfl | rfl | rfl := instr_kinds i
  · obtain ⟨g, -, -, hexec⟩ := exec_reader hread
    rw [hexec, hexec]
    exact needFrame_withInputs s l fun _ => rfl
  · obtain ⟨legal, -, hexec⟩ := exec_setter hset
    rw [hexec, hexec]
    exact setField_withInputs s l t _ legal v
  · rfl
  · rfl
  · rfl
  · exact editFrame_withInputs s l .controller _

theorem runCommand_withInputs (w : CmdWord) :
    runCommand w { s with inputs := l } = withInputs l (runCommand w s) := by
  cases hd : decode w with
  | ok i => simpa only [runCommand, hd] using exec_withInputs s l i
  | error e => simp only [runCommand, hd, raise_withInputs]

end

/-- A step on the input `x` is the same whatever comes after `x`, but for what then waits. -/
theorem step_withInputs (s : State) (x : Input) (rest rest' : List Input) :
    step { s with inputs := x :: rest' } = withInputs rest' (step { s with inputs := x :: rest }) := by
  obtain ⟨p, mf, cf, din, r, _⟩ := s
  by_cases hp : LegalParams p
  · cases x with
    | reset => rw [step_reset hp rfl, step_reset hp rfl]; rfl
    | command w d =>
      rw [step_command hp rfl, step_command hp rfl]
      exact runCommand_withInputs (present d rest ⟨p, mf, cf, din, r, _⟩) rest' w
  · rw [step_refused_of_illegal hp, step_refused_of_illegal hp]; rfl

/-- A step takes exactly the first input. -/
theorem inputs_of_step {s u : State} (h : step s = .next u) : u.inputs = s.inputs.tail := by
  obtain ⟨-, ⟨hin, rfl⟩ | ⟨rest, hin, rfl⟩ | ⟨w, d, rest, hin, heff⟩⟩ := step_effect h
  · simp [hin]
  · simp [hin]
  · simpa [hin] using heff.inputs

/-- Settles O11: a step takes one input, and its outcome carries over to any other list behind that one. -/
theorem laterInputsDoNotMatter : Obligations.LaterInputsDoNotMatter := by
  intro s u x rest rest' h
  refine ⟨inputs_of_step h, ?_⟩
  rw [step_withInputs s x rest rest', h]
  rfl

/-! ### Repeated commands (R49) -/

/-- Writing a field twice with one value is writing it once. -/
theorem putField_putField (fp : FieldPos) (v : Byte) (f : Frame) :
    putField fp v (putField fp v f) = putField fp v f := by
  refine frame_ext_bits fun k j hj => ?_
  simp only [putField_getLsbD _ _ _ _ _ hj]
  split <;> rfl

/-- Writing one payload twice is writing it once. -/
theorem putPayload_putPayload (p0 p1 p2 p3 p4 : Byte) (f : Frame) :
    putPayload p0 p1 p2 p3 p4 (putPayload p0 p1 p2 p3 p4 f) = putPayload p0 p1 p2 p3 p4 f := rfl

/-- A field setter with a legal immediate on a constructed frame: the field is put, the answer OK. -/
theorem exec_setter_ok {i : Instr} {t : Target} {fld : Field} {v : Byte} (hset : sets i = some (t, fld, v))
    (hlegal : fld.Legal v) {s : State} {f : Frame} (hf : s.frameOf t = some f) :
    exec i s = .next ((s.withFrame t (putField (fld.pos s.params) v f)).answer {}) := by
  obtain ⟨hill, -⟩ | ⟨-, hn, -⟩ | ⟨g, -, hg, hexec⟩ := exec_setter_cases hset s
  · exact absurd hlegal hill
  · simp [hf] at hn
  · obtain rfl : f = g := by simpa [hf] using hg
    exact hexec

/-- A command that wrote nothing but its response answers the same again. -/
theorem exec_repeat_of_answer {i : Instr} {s : State} {r : Response} (h : exec i s = .next (s.answer r)) :
    exec i (s.answer r) = .next (s.answer r) :=
  (exec_withResponse s (some r) i).trans h

/-- A reader writes nothing but its response. -/
theorem exec_reader_answers {i : Instr} {t : Target} (hread : readsOnly i = some t) (s : State) :
    ∃ r, exec i s = .next (s.answer r) := by
  obtain ⟨g, -, -, hexec⟩ := exec_reader hread
  rw [hexec]
  cases hf : s.frameOf t with
  | none => exact ⟨_, needFrame_none hf _⟩
  | some f => exact ⟨_, needFrame_some hf _⟩

/-- A field setter, repeated, puts the same value into the field once more. -/
theorem exec_setter_repeat {i : Instr} {t : Target} {fld : Field} {v : Byte}
    (hset : sets i = some (t, fld, v)) (s : State) : ∃ u, exec i s = .next u ∧ exec i u = .next u := by
  obtain ⟨-, h⟩ | ⟨-, -, h⟩ | ⟨f, hlegal, -, h⟩ := exec_setter_cases hset s
  · exact ⟨_, h, exec_repeat_of_answer h⟩
  · exact ⟨_, h, exec_repeat_of_answer h⟩
  · refine ⟨_, h, ?_⟩
    rw [exec_setter_ok hset hlegal (f := putField (fld.pos s.params) v f) (by simp)]
    simp [State.answer_withFrame, putField_putField]

/-- CF_SET_PAYLOAD, repeated, writes the payload that `DIN64` still shows. -/
theorem exec_cfSetPayload_repeat (s : State) :
    ∃ u, exec .cfSetPayload s = .next u ∧ exec .cfSetPayload u = .next u := by
  obtain ⟨-, h⟩ | ⟨f, -, h⟩ := exec_cfSetPayload_cases s
  · exact ⟨_, h, exec_repeat_of_answer h⟩
  · exact ⟨_, h, rfl⟩

/-- Every command leaves a state that it leaves as it is when repeated. -/
theorem exec_repeat (i : Instr) (s : State) : ∃ u, exec i s = .next u ∧ exec i u = .next u := by
  obtain ⟨t, hread⟩ | ⟨t, fld, v, hset⟩ | rfl | rfl | rfl | rfl := instr_kinds i
  · obtain ⟨r, h⟩ := exec_reader_answers hread s
    exact ⟨_, h, exec_repeat_of_answer h⟩
  · exact exec_setter_repeat hset s
  · exact ⟨_, construct_eq .master (frameOfLanes s.din64) s, rfl⟩
  · exact ⟨_, construct_eq .controller (canonicalDefault s.params) s, rfl⟩
  · exact ⟨_, construct_eq .controller (frameOfLanes s.din64) s, rfl⟩
  · exact exec_cfSetPayload_repeat s

/-- Settles O20: every command repeats, and a reader's one next state is an answer. -/
theorem readsHaveNoSideEffect : Obligations.ReadsHaveNoSideEffect := by
  intro i s
  obtain ⟨u, hfirst, hagain⟩ := exec_repeat i s
  refine ⟨u, hfirst, hagain, fun t hread => ?_⟩
  obtain ⟨r, h⟩ := exec_reader_answers hread s
  exact ⟨r, by simpa [h, State.answer] using hfirst.symm⟩

/-! ### A status-view write, seen by the frame reads (R47) -/

/-- The whole-frame read of a target (R101, R152). -/
def wholeRead : Target → Instr
  | .master => .mfRead
  | .controller => .cfRead

/-- The payload read of a target (R102, R153). -/
def payloadRead : Target → Instr
  | .master => .mfGetPayload
  | .controller => .cfGetPayload

/-- The equality test of a target (R103, R155). -/
def equalityTest : Target → Instr
  | .master => .mfEq
  | .controller => .cfEq

/-- `lane_lanesOfFrame`, in the words of the statements. -/
theorem laneOf_lanesOfFrame (f : Frame) (k : Fin 8) : laneOf (lanesOfFrame f) k = f[k] :=
  lane_lanesOfFrame f k

/-- The payload bytes are on lanes 0 to 4, and lanes 5 to 7 are zero (R42). -/
theorem laneOf_lanesOfPayload (f : Frame) (k : Fin 8) :
    laneOf (lanesOfPayload f) k = if h : k.val < 5 then f[3 + k.val] else 0 := by
  refine (laneOf_lanesOfFrame _ k).trans ?_
  fin_cases k <;> rfl

section
variable {t : Target} {s : State} {f : Frame}

theorem exec_wholeRead (hf : s.frameOf t = some f) :
    exec (wholeRead t) s = answers s .ok 0 (lanesOfFrame f) false := by
  have hread : exec (wholeRead t) s = readDout t lanesOfFrame s := by cases t <;> rfl
  rw [hread, readDout, needFrame_some hf]; rfl

theorem exec_payloadRead (hf : s.frameOf t = some f) :
    exec (payloadRead t) s = answers s .ok 0 (lanesOfPayload f) false := by
  have hread : exec (payloadRead t) s = readDout t lanesOfPayload s := by cases t <;> rfl
  rw [hread, readDout, needFrame_some hf]; rfl

/-- A frame tested against a `DIN64` whose lanes are its bytes is equal to it. -/
theorem exec_equalityTest_of_lanes (hf : s.frameOf t = some f) {d : DataWord}
    (hd : ∀ k : Fin 8, laneOf d k = f[k]) :
    exec (equalityTest t) { s with din64 := d } = answers { s with din64 := d } .ok 0 0 true := by
  have htest (s' : State) : exec (equalityTest t) s' = compareFrame t s' := by cases t <;> rfl
  have hf' : ({ s with din64 := d } : State).frameOf t = some f := by
    rw [← hf]; cases t <;> rfl
  exact ((compares_of_compareFrame htest _).2 f hf').1 fun k => (hd k).symm

end

/-- Settles O26: the setter leaves the frame `put` gives, and the three commands read that frame. -/
theorem viewWritesAreSeenInTheFrame : Obligations.ViewWritesAreSeenInTheFrame := by
  intro i t fld v s f hset _ hlegal hf
  have hframe : ((s.withFrame t (putField (fld.pos s.params) v f)).answer {}).frameOf t =
      some (putField (fld.pos s.params) v f) := by simp
  have hlanes := laneOf_lanesOfFrame (putField (fld.pos s.params) v f)
  exact ⟨_, _, _, _, exec_setter_ok hset hlegal hf, putField_getLsbD (fld.pos s.params) v f,
    hlanes, laneOf_lanesOfPayload _,
    exec_wholeRead hframe, exec_payloadRead hframe, exec_equalityTest_of_lanes hframe hlanes⟩

end Sys2Proof.Memory

/-! PROOFS of the statements of 30_encoding.md: the encoder and the decoder undo each other (R72, R75), the
decoder and the opcode table agree (R74, R75), the assembler writes only command words (R78, R79), and the
lanes of `DIN64` that a command does not read (R73). -/

namespace Sys2Proof.Encoding

open Machine Rules Laws Scope BlockState

/-! ### The decoder, by the shape of the opcode's row (R75) -/

/-- The fields that a row of this shape fixes beside OP and RSV have their values in `w`. -/
def AcceptedBy (w : CmdWord) : Shape → Prop
  | .frame _ => tField w = false ∧ immField w = 0
  | .frameImm _ => tField w = false
  | .viewGet _ => immField w = 0
  | .viewSet _ => True

/-- The command of the shape with the operands that stand in `w`. -/
def commandIn (w : CmdWord) : Shape → Instr
  | .frame i => i
  | .frameImm f => f (immField w)
  | .viewGet f => f (targetOf (tField w))
  | .viewSet f => f (targetOf (tField w)) (immField w)

/-- A word that its opcode's row accepts decodes: the converse of `decode_ok_cases`. -/
theorem decode_of_accepted {w : CmdWord} {sh : Shape} (hrsv : rsvField w = false)
    (hsh : shapeOf (opField w).toNat = some sh) (hacc : AcceptedBy w sh) :
    decode w = .ok (commandIn w sh) := by
  cases sh with
  | frame i =>
    obtain ⟨ht, himm⟩ := hacc
    simp [decode, hrsv, hsh, ht, himm, commandIn]
  | frameImm f =>
    have ht : tField w = false := hacc
    simp [decode, hrsv, hsh, ht, commandIn]
  | viewGet f =>
    have himm : immField w = 0 := hacc
    simp [decode, hrsv, hsh, himm, commandIn]
  | viewSet f => simp [decode, hrsv, hsh, commandIn]

/-- The row at the opcode of a command's word accepts the word, and the command is the one it stands for. -/
theorem exists_shape_encode (i : Instr) :
    ∃ sh, shapeOf (opField (encode i)).toNat = some sh ∧ AcceptedBy (encode i) sh ∧
      commandIn (encode i) sh = i := by
  cases i <;> simp [encode, shapeOf, AcceptedBy, commandIn]

theorem rsvField_encode (i : Instr) : rsvField (encode i) = false := by
  cases i <;> exact rsvField_cmdWord _ _ _

/-- The decoder reads the command from the word the encoder writes. -/
theorem decode_encode (i : Instr) : decode (encode i) = .ok i := by
  obtain ⟨sh, hsh, hacc, hcommand⟩ := exists_shape_encode i
  rw [decode_of_accepted (rsvField_encode i) hsh hacc, hcommand]

/-- Settles O1: the row at the opcode of the word reads the operands that the encoder wrote. -/
theorem decodeOfEncodeIsTheCommand : Obligations.DecodeOfEncodeIsTheCommand := decode_encode

/-- Settles O2: the word is put together again from the fields that the decoder has checked. -/
theorem encodeOfDecodeIsTheWord : Obligations.EncodeOfDecodeIsTheWord := fun _ _ => encode_of_decode

/-- Settles O4: the six words are the encodings of the six commands. -/
theorem sampleWordsDecodeAsWritten : Obligations.SampleWordsDecodeAsWritten :=
  ⟨decode_encode .mfEq, decode_encode (.mfSetDest 32), decode_encode (.cfSetQuery 2),
    decode_encode (.getMode .controller), decode_encode (.setMode .controller 3),
    decode_encode (.setTemp .master 30)⟩

/-! ### The opcode table (R74, R75) -/

/-- The mask of a row of the opcode table (R75). -/
def maskOf : Shape → CmdWord
  | .frame _ => 0xFFFF
  | .frameImm _ => 0x00FF
  | .viewGet _ => 0xFF7F
  | .viewSet _ => 0x007F

/-- Each row of the table is the row of its match's opcode in the opcode map. -/
theorem shapeOf_row : ∀ r ∈ opcodeRows,
    r.value.toNat < 64 ∧ (shapeOf r.value.toNat).map maskOf = some r.mask := by decide

/-- No opcode has two rows. -/
theorem row_ext {r r' : OpcodeRow} (hr : r ∈ opcodeRows) (hr' : r' ∈ opcodeRows)
    (hop : opField r.value = opField r'.value) : r = r' :=
  List.inj_on_of_nodup_map (f := fun r => opField r.value) (by decide) hr hr' hop

/-- A word that agrees with an opcode under the mask of a shape has that opcode, RSV = 0, and is accepted. -/
theorem fields_of_and_mask {w v : CmdWord} {sh : Shape} (hv : v.toNat < 64) (h : w &&& maskOf sh = v) :
    (opField w).toNat = v.toNat ∧ rsvField w = false ∧ AcceptedBy w sh := by
  have hw := w.isLt
  have himm : immField w = 0 ↔ w.toNat / 256 = 0 := by rw [← BitVec.toNat_inj, immField_toNat]; rfl
  rw [← BitVec.toNat_inj] at h
  rw [opField_toNat, rsvField_eq, decide_eq_false_iff_not]
  cases sh with
  | frame i =>
    rw [maskOf, and_lowMask_toNat w _ 16 rfl] at h
    rw [AcceptedBy, tField_eq, decide_eq_false_iff_not, himm]
    omega
  | frameImm f =>
    rw [maskOf, and_lowMask_toNat w _ 8 rfl] at h
    rw [AcceptedBy, tField_eq, decide_eq_false_iff_not]
    omega
  | viewGet f =>
    rw [maskOf, and_FF7F_toNat] at h
    rw [AcceptedBy, himm]
    omega
  | viewSet f =>
    rw [maskOf, and_lowMask_toNat w _ 7 rfl] at h
    exact ⟨by omega, by omega, trivial⟩

section
variable {w : CmdWord} {r : OpcodeRow}

/-- A word that selects a row has the opcode of the row's match, RSV = 0, and a shape that accepts it. -/
theorem fields_of_selects (hr : r ∈ opcodeRows) (h : w &&& r.mask = r.value) :
    opField w = opField r.value ∧ rsvField w = false ∧
      ∃ sh, shapeOf (opField w).toNat = some sh ∧ AcceptedBy w sh := by
  obtain ⟨hlt, hmap⟩ := shapeOf_row r hr
  obtain ⟨sh, hsh, hmask⟩ := Option.map_eq_some_iff.1 hmap
  obtain ⟨hop, hrsv, hacc⟩ := fields_of_and_mask hlt (hmask ▸ h)
  refine ⟨BitVec.eq_of_toNat_eq ?_, hrsv, sh, hop ▸ hsh, hacc⟩
  rw [hop, opField_toNat, Nat.mod_eq_of_lt hlt]

/-- A word that selects a row decodes. -/
theorem exists_decode_of_selects (hr : r ∈ opcodeRows) (h : w &&& r.mask = r.value) :
    ∃ i, decode w = .ok i := by
  obtain ⟨-, hrsv, sh, hsh, hacc⟩ := fields_of_selects hr h
  exact ⟨_, decode_of_accepted hrsv hsh hacc⟩

/-- No word selects two rows. -/
theorem row_unique_of_selects {r' : OpcodeRow} (hr : r ∈ opcodeRows) (hr' : r' ∈ opcodeRows)
    (h : w &&& r.mask = r.value) (h' : w &&& r'.mask = r'.value) : r = r' := by
  obtain ⟨hop, -⟩ := fields_of_selects hr h
  obtain ⟨hop', -⟩ := fields_of_selects hr' h'
  exact row_ext hr hr' (hop.symm.trans hop')

end

open EncodesItsRow in
/-- The laws of Laws/PerInstr.lean together: the word of every command selects a row with its mnemonic. -/
theorem encodesItsRow (i : Instr) : EncodesItsRow.Statement i := by
  cases i
  exacts [mfLoad, mfRead, mfGetPayload, mfEq, mfGetDest, mfSetDest _, mfGetUnknown, mfSetUnknown _,
    mfGetType, mfSetType _, cfDefault, cfLoad, cfRead, cfGetPayload, cfSetPayload, cfEq, cfGetLogin,
    cfSetLogin _, cfGetWrite, cfSetWrite _, cfGetQuery, cfSetQuery _, getEnabled _, setEnabled _ _,
    getMode _, setMode _ _, getFan _, setFan _ _, getError _, setError _ _, getTemp _, setTemp _ _,
    getEconomy _, setEconomy _ _, getMagic _, setMagic _ _, getSwing _, setSwing _ _, getSwingStep _,
    setSwingStep _ _, getPresent _, setPresent _ _]

/-- A word that decodes selects a row with the mnemonic of its command. -/
theorem exists_row_of_decode {w : CmdWord} {i : Instr} (h : decode w = .ok i) :
    ∃ r ∈ opcodeRows, w &&& r.mask = r.value ∧ r.mnemonic = i.mnemonic := by
  obtain ⟨r, hr, hname, hsel⟩ := encodesItsRow i
  rw [encode_of_decode h, OpcodeRow.selects, beq_iff_eq] at hsel
  exact ⟨r, hr, hsel, hname⟩

/-- Settles O3: a decoded word selects its command's row, a row's words decode, and no opcode has two rows. -/
theorem decoderFollowsTheOpcodeTable : Obligations.DecoderFollowsTheOpcodeTable := by
  intro w
  refine ⟨⟨?_, ?_⟩, ?_, fun r hr r' hr' => row_unique_of_selects hr hr'⟩
  · rintro ⟨i, hd⟩
    obtain ⟨r, hr, hsel, -⟩ := exists_row_of_decode hd
    exact ⟨r, hr, hsel⟩
  · rintro ⟨r, hr, hsel⟩
    exact exists_decode_of_selects hr hsel
  · intro i hd r hr hsel
    obtain ⟨r', hr', hsel', hname⟩ := exists_row_of_decode hd
    rw [row_unique_of_selects hr hr' hsel hsel', hname]

/-! ### The assembler (R78, R79) -/

/-- Whatever a mapped answer is, it comes from an answer. -/
theorem exists_ok_of_map_ok {ε α β : Type} {f : α → β} {x : Except ε α} {b : β}
    (h : x.map f = .ok b) : ∃ a, x = .ok a ∧ f a = b := by
  cases x with
  | error e => cases h
  | ok a => exact ⟨a, rfl, Except.ok.inj h⟩

/-- An assembled word is made of its opcode and of fields that the opcode's row accepts. -/
theorem asmOperands_ok {op : BitVec 6} {ops : List Token} {c : CmdWord × DataWord}
    (h : asmOperands op ops = .ok c) :
    ∃ sh imm t, shapeOf op.toNat = some sh ∧ c.1 = cmdWord imm t op ∧ AcceptedBy c.1 sh := by
  unfold asmOperands at h
  split at h
  · cases h
  · next i hsh =>
    refine ⟨_, 0, false, hsh, ?_⟩
    split at h
    · split at h
      · obtain rfl := Except.ok.inj h; simp [AcceptedBy]
      · cases h
    · obtain ⟨d, -, rfl⟩ := exists_ok_of_map_ok h
      simp [AcceptedBy]
  · next f hsh =>
    split at h
    · obtain ⟨imm, -, rfl⟩ := exists_ok_of_map_ok h
      exact ⟨_, imm, false, hsh, rfl, by simp [AcceptedBy]⟩
    · cases h
  · next f hsh =>
    split at h
    · obtain ⟨t, -, rfl⟩ := exists_ok_of_map_ok h
      exact ⟨_, 0, targetBit t, hsh, rfl, by simp [AcceptedBy]⟩
    · cases h
  · next f hsh =>
    split at h
    · split at h
      · next t imm _ _ =>
        obtain rfl := Except.ok.inj h
        exact ⟨_, imm, targetBit t, hsh, rfl, trivial⟩
      · cases h
      · cases h
    · cases h

/-- An assembled word decodes, and it has the opcode it was assembled for. -/
theorem decode_of_asmOperands {op : BitVec 6} {ops : List Token} {c : CmdWord × DataWord}
    (h : asmOperands op ops = .ok c) : opField c.1 = op ∧ ∃ i, decode c.1 = .ok i := by
  obtain ⟨sh, imm, t, hsh, hc, hacc⟩ := asmOperands_ok h
  have hop : opField c.1 = op := by rw [hc, opField_cmdWord]
  have hrsv : rsvField c.1 = false := by rw [hc, rsvField_cmdWord]
  exact ⟨hop, _, decode_of_accepted hrsv (hop.symm ▸ hsh) hacc⟩

/-- An assembled line begins with the mnemonic of a row, and the rest are the operands of its opcode. -/
theorem assemble_ok {line : String} {c : CmdWord × DataWord} (h : assemble line = .ok c) :
    ∃ r ∈ opcodeRows, ∃ ops, tokens [] (stripComment line.toList) = r.mnemonic.toList :: ops ∧
      asmOperands (opField r.value) ops = .ok c := by
  unfold assemble at h
  split at h
  · cases h
  · next m ops htokens =>
    split at h
    · cases h
    · next r hfind =>
      have hname : r.mnemonic.toList = m := by simpa using List.find?_some hfind
      exact ⟨r, List.mem_of_find?_eq_some hfind, ops, by rw [htokens, hname], h⟩

/-- Settles O5: the word decodes to a command at the opcode of the line's row, so it has that row's
mnemonic. -/
theorem assembledLinesAreCommands : Obligations.AssembledLinesAreCommands := by
  intro line w d h
  obtain ⟨r, hr, ops, htokens, hops⟩ := assemble_ok h
  obtain ⟨hop, i, hd⟩ := decode_of_asmOperands hops
  obtain ⟨r', hr', hsel, hname⟩ := exists_row_of_decode hd
  obtain ⟨hop', -⟩ := fields_of_selects hr' hsel
  obtain rfl : r = r' := row_ext hr hr' (hop.symm.trans hop')
  exact ⟨i, hd, by rw [htokens, hname, List.head?_cons]⟩

/-! ### The lanes a command does not read (R73, R154) -/

/-- The same outcome, with another value on the data port in the next state. -/
def withDin64 (e : DataWord) : Result → Result
  | .next u => .next { u with din64 := e }
  | .fault x => .fault x
  | .refused x => .refused x

section
variable (s : State) (e : DataWord)

theorem raise_withDin64 (st : Status) : raise st { s with din64 := e } = withDin64 e (raise st s) := rfl

theorem needFrame_withDin64 {t : Target} {k k' : Frame → Result} (hk : ∀ f, k' f = withDin64 e (k f)) :
    needFrame t { s with din64 := e } k' = withDin64 e (needFrame t s k) := by
  have hframe : ({ s with din64 := e } : State).frameOf t = s.frameOf t := by cases t <;> rfl
  cases hf : s.frameOf t with
  | none => rw [needFrame_none hf, needFrame_none (hframe.trans hf), raise_withDin64]
  | some f => rw [needFrame_some hf, needFrame_some (hframe.trans hf), hk]

theorem editFrame_withDin64 (t : Target) (edit : Frame → Frame) :
    editFrame t edit { s with din64 := e } = withDin64 e (editFrame t edit s) :=
  needFrame_withDin64 s e fun _ => by cases t <;> rfl

theorem setField_withDin64 (t : Target) (fp : FieldPos) (legal : Bool) (imm : Byte) :
    setField t fp legal imm { s with din64 := e } = withDin64 e (setField t fp legal imm s) := by
  cases legal with
  | false => rfl
  | true => exact editFrame_withDin64 s e t _

/-- Every command but the two loads, the two equality tests and CF_SET_PAYLOAD reads no lane (R73). -/
theorem exec_withDin64 {i : Instr}
    (hi : i ≠ .mfLoad ∧ i ≠ .mfEq ∧ i ≠ .cfLoad ∧ i ≠ .cfEq ∧ i ≠ .cfSetPayload) :
    exec i { s with din64 := e } = withDin64 e (exec i s) := by
  obtain ⟨hmfLoad, hmfEq, hcfLoad, hcfEq, hcfSetPayload⟩ := hi
  obtain ⟨t, hread⟩ | ⟨t, fld, v, hset⟩ | rfl | rfl | rfl | rfl := instr_kinds i
  · obtain ⟨g, -, hlanes, hexec⟩ := exec_reader hread
    rw [hexec, hexec]
    refine needFrame_withDin64 s e fun f => ?_
    rw [hlanes hmfEq hcfEq s.params e s.din64 f]
    rfl
  · obtain ⟨legal, -, hexec⟩ := exec_setter hset
    rw [hexec, hexec]
    exact setField_withDin64 s e t _ legal v
  · exact absurd rfl hmfLoad
  · rfl
  · exact absurd rfl hcfLoad
  · exact absurd rfl hcfSetPayload

/-- CF_SET_PAYLOAD reads lanes 0 to 4 and no other (R154). -/
theorem exec_cfSetPayload_withDin64 (h : ∀ k : Fin 8, k.val < 5 → laneOf s.din64 k = laneOf e k) :
    exec .cfSetPayload { s with din64 := e } = withDin64 e (exec .cfSetPayload s) := by
  have h0 : lane s.din64 0 = lane e 0 := h 0 (by decide)
  have h1 : lane s.din64 1 = lane e 1 := h 1 (by decide)
  have h2 : lane s.din64 2 = lane e 2 := h 2 (by decide)
  have h3 : lane s.din64 3 = lane e 3 := h 3 (by decide)
  have h4 : lane s.din64 4 = lane e 4 := h 4 (by decide)
  calc exec .cfSetPayload { s with din64 := e }
    _ = editFrame .controller (putPayload (lane e 0) (lane e 1) (lane e 2) (lane e 3) (lane e 4))
          { s with din64 := e } := rfl
    _ = withDin64 e (editFrame .controller
          (putPayload (lane e 0) (lane e 1) (lane e 2) (lane e 3) (lane e 4)) s) :=
        editFrame_withDin64 s e .controller _
    _ = withDin64 e (exec .cfSetPayload s) := by rw [← h0, ← h1, ← h2, ← h3, ← h4]; rfl

end

/-- Settles O13: a command answers, and its outcome carries over to a port that differs on unread lanes. -/
theorem unreadDataLanesAreIgnored : Obligations.UnreadDataLanesAreIgnored := by
  intro i s d e hi
  obtain ⟨u, hu⟩ := exec_isNext i { s with din64 := d }
  have hport : exec i { s with din64 := e } = withDin64 e (exec i { s with din64 := d }) := by
    obtain hi | ⟨rfl, hlanes⟩ := hi
    · exact exec_withDin64 { s with din64 := d } e hi
    · exact exec_cfSetPayload_withDin64 { s with din64 := d } e hlanes
  exact ⟨u, hu, by rw [hport, hu]; rfl⟩

end Sys2Proof.Encoding

/-! PROOFS of the statements of 40_master_frame.md: the ten master-frame commands (R100 to R109), the six
controller-frame header commands of the same shapes, and the bits of MF that only MF_LOAD writes (R110). -/

namespace Sys2Proof.MasterFrame

open Machine Rules BlockState Memory Encoding

/-! ### The words of a frame command (R72, R75) -/

/-- A command has exactly one word. -/
theorem decode_eq_ok_iff {w : CmdWord} {i : Instr} : decode w = .ok i ↔ encode i = w :=
  ⟨encode_of_decode, fun h => h ▸ decode_encode i⟩

theorem frameWord_encode (i : Instr) : FrameWord i (encode i) :=
  fun _ => decode_eq_ok_iff.trans eq_comm

/-- A word with T = 0 is fixed by its low byte, which is the opcode, and its immediate. -/
theorem cmdWord_false_eq_iff {w v : CmdWord} {imm : Byte} {op : BitVec 6} (hv : v.toNat = op.toNat) :
    cmdWord imm false op = w ↔ w &&& 0x00FF = v ∧ immField w = imm := by
  have hop := op.isLt
  have hlow : (w &&& 0x00FF).toNat = w.toNat % 2 ^ 8 := and_lowMask_toNat w _ 8 rfl
  rw [← BitVec.toNat_inj, ← BitVec.toNat_inj (x := w &&& 0x00FF), ← BitVec.toNat_inj (x := immField w),
    cmdWord_toNat, hlow, immField_toNat, hv, Bool.toNat_false]
  omega

theorem immWord_of_encode {i : Byte → Instr} {v : CmdWord} {op : BitVec 6}
    (henc : ∀ imm, encode (i imm) = cmdWord imm false op) (hv : v.toNat = op.toNat) : ImmWord i v := by
  intro w imm
  rw [decode_eq_ok_iff, henc]
  exact cmdWord_false_eq_iff hv

/-! ### Constructors and the legal sets of the header setters (R303) -/

/-- A command that is `construct` has the shape `Constructs`. -/
theorem constructs_of_construct {i : Instr} {t : Target} {g : State → Frame} {byte : State → Fin 8 → Byte}
    (h : ∀ s, exec i s = construct t (g s) s) (hg : ∀ s (k : Fin 8), (g s)[k] = byte s k) :
    Constructs i t byte :=
  fun s => ⟨g s, hg s, (h s).trans (construct_eq t (g s) s)⟩

theorem legalDest_iff (imm : Byte) : imm = 0 ∨ imm = 1 ∨ imm = 32 ↔ legalDest imm = true := by
  simp [legalDest, or_assoc]

theorem legalFlag_iff (imm : Byte) : imm.toNat ≤ 1 ↔ legalFlag imm = true := by simp [legalFlag]

theorem legalType_iff (imm : Byte) : imm.toNat ≤ 3 ↔ legalType imm = true := by simp [legalType]

/-! ### The decoded header fields (R67, R68) -/

/-- A destination is shown as its raw code where that is a variant's, else as UNKNOWN's. -/
theorem destinationCode_decode_toNat (raw : Byte) :
    (destinationCode (decodeDestination raw)).toNat =
      if raw.toNat = 0 ∨ raw.toNat = 1 ∨ raw.toNat = 32 then raw.toNat else 0 := by
  unfold decodeDestination
  split
  · next h => rw [h]; rfl
  · next h => rw [h]; rfl
  · next h1 h32 =>
    split
    · next hv =>
      obtain h | h | h := hv
      · rw [h]; rfl
      · exact (h1 h).elim
      · exact (h32 h).elim
    · rfl

/-- Each of the four codes of a register type is a variant. -/
theorem registerTypeCode_decode_toNat {raw : Byte} (hraw : raw.toNat < 4) :
    (registerTypeCode (decodeRegisterType raw)).toNat = raw.toNat := by
  obtain h | h | h | h : raw.toNat = 0 ∨ raw.toNat = 1 ∨ raw.toNat = 2 ∨ raw.toNat = 3 := by omega
  all_goals rw [decodeRegisterType, h]; rfl

/-- A two-bit field, decoded as a register type, is shown as it stands in the frame. -/
theorem registerTypeCode_getField_toNat {fp : FieldPos} (hw : fp.width = 2) (f : Frame) :
    (registerTypeCode (decodeRegisterType (getField fp f))).toNat = fieldNum f[fp.byte] fp.lo 2 := by
  have hget : (getField fp f).toNat = fieldNum f[fp.byte] fp.lo 2 :=
    hw ▸ getField_toNat_eq_fieldNum fp f
  have hlt : fieldNum f[fp.byte] fp.lo 2 < 2 ^ 2 := Nat.mod_lt _ (by decide)
  rw [registerTypeCode_decode_toNat (hget ▸ hlt), hget]

/-! ### MF_LOAD, MF_READ, MF_GET_PAYLOAD and MF_EQ (R100 to R103) -/

/-- Settles O33: MF_LOAD is `construct` at the lanes of `DIN64`. -/
theorem mfLoadConstructsTheMasterFrame : Obligations.MfLoadConstructsTheMasterFrame :=
  ⟨frameWord_encode .mfLoad, constructs_of_construct (fun _ => rfl) fun s => frameOfLanes_getElem s.din64⟩

/-- Settles O34: MF_READ is `readDout` of the lanes of the frame. -/
theorem mfReadReturnsTheWholeFrame : Obligations.MfReadReturnsTheWholeFrame :=
  ⟨frameWord_encode .mfRead, reads64_of_readDout (fun _ => rfl) laneOf_lanesOfFrame⟩

/-- Settles O35: MF_GET_PAYLOAD is `readDout` of the lanes of the payload. -/
theorem mfGetPayloadReturnsBytesThreeToSeven : Obligations.MfGetPayloadReturnsBytesThreeToSeven :=
  ⟨frameWord_encode .mfGetPayload, reads64_of_readDout (fun _ => rfl) laneOf_lanesOfPayload⟩

/-- Settles O36: MF_EQ is `compareFrame`. -/
theorem mfEqComparesEveryByte : Obligations.MfEqComparesEveryByte :=
  ⟨frameWord_encode .mfEq, compares_of_compareFrame fun _ => rfl⟩

/-! ### The header getters (R104, R106, R108, R156, R158, R160) -/

/-- Settles O37: the seven bits at DEST_LO, decoded. -/
theorem mfGetDestDecodesTheDestination : Obligations.MfGetDestDecodesTheDestination := by
  refine ⟨frameWord_encode .mfGetDest, reads8_of_readD8 (fun _ => rfl) fun s f => ?_⟩
  rw [destinationCode_decode_toNat, getField_toNat_eq_fieldNum]
  rfl

/-- Settles O45: each getter is the raw `get` of its one-bit field. -/
theorem headerBitGettersReadTheirBit : Obligations.HeaderBitGettersReadTheirBit :=
  ⟨⟨frameWord_encode .mfGetUnknown,
      reads8_of_readD8 (fun _ => rfl) fun s => getField_toNat_eq_fieldNum (unknownField s.params)⟩,
    ⟨frameWord_encode .cfGetLogin,
      reads8_of_readD8 (fun _ => rfl) fun s => getField_toNat_eq_fieldNum (loginField s.params)⟩,
    ⟨frameWord_encode .cfGetWrite,
      reads8_of_readD8 (fun _ => rfl) fun s => getField_toNat_eq_fieldNum (writeField s.params)⟩⟩

/-- Settles O47: each getter decodes a two-bit field, all of whose codes are variants. -/
theorem registerTypesAreDecoded : Obligations.RegisterTypesAreDecoded :=
  ⟨⟨frameWord_encode .mfGetType,
      reads8_of_readD8 (fun _ => rfl) fun s => registerTypeCode_getField_toNat (fp := typeField s.params) rfl⟩,
    ⟨frameWord_encode .cfGetQuery,
      reads8_of_readD8 (fun _ => rfl) fun s => registerTypeCode_getField_toNat (fp := queryField s.params) rfl⟩⟩

/-! ### The header setters (R105, R107, R109, R157, R159, R161) -/

/-- Settles O38: MF_SET_DEST is `setField` at the destination. -/
theorem mfSetDestWritesTheDestination : Obligations.MfSetDestWritesTheDestination :=
  ⟨immWord_of_encode (op := 0x06) (fun _ => rfl) rfl,
    writes_of_setField (fp := destField) (fun _ _ => rfl) legalDest_iff fun _ => rfl⟩

/-- Settles O46: each setter is `setField` at its one-bit field. -/
theorem headerBitSettersWriteTheirBit : Obligations.HeaderBitSettersWriteTheirBit :=
  ⟨⟨immWord_of_encode (op := 0x08) (fun _ => rfl) rfl,
      writes_of_setField (fp := unknownField) (fun _ _ => rfl) legalFlag_iff fun _ => rfl⟩,
    ⟨immWord_of_encode (op := 0x17) (fun _ => rfl) rfl,
      writes_of_setField (fp := loginField) (fun _ _ => rfl) legalFlag_iff fun _ => rfl⟩,
    ⟨immWord_of_encode (op := 0x19) (fun _ => rfl) rfl,
      writes_of_setField (fp := writeField) (fun _ _ => rfl) legalFlag_iff fun _ => rfl⟩⟩

/-- Settles O48: each setter is `setField` at its two-bit field. -/
theorem registerTypesAreWritten : Obligations.RegisterTypesAreWritten :=
  ⟨⟨immWord_of_encode (op := 0x0A) (fun _ => rfl) rfl,
      writes_of_setField (fp := typeField) (fun _ _ => rfl) legalType_iff fun _ => rfl⟩,
    ⟨immWord_of_encode (op := 0x1B) (fun _ => rfl) rfl,
      writes_of_setField (fp := queryField) (fun _ _ => rfl) legalType_iff fun _ => rfl⟩⟩

/-! ### What a command does to a constructed frame (R110, R222) -/

/-- `f'` is what the command `i` leaves of the frame `f` of `t`, if it does not construct it anew: `f`
itself, `f` with the field put that `i` sets, or CF with another payload. -/
def FrameAfter (i : Instr) (t : Target) (p : Params) (f f' : Frame) : Prop :=
  f' = f ∨ (∃ fld v, sets i = some (t, fld, v) ∧ f' = putField (fld.pos p) v f) ∨
    (i = .cfSetPayload ∧ t = .controller ∧ ∃ p0 p1 p2 p3 p4, f' = putPayload p0 p1 p2 p3 p4 f)

section
variable {i : Instr} {t : Target} {s u : State} {f f' : Frame}

/-- An answer leaves every frame as it was. -/
theorem frameAfter_of_answer {r : Response} (hf : s.frameOf t = some f) :
    ∃ f', (s.answer r).frameOf t = some f' ∧ FrameAfter i t s.params f f' :=
  ⟨f, by simpa using hf, .inl rfl⟩

/-- A write of the frame `t'` is what it does to `t` if `t` is `t'`, and does nothing to the other frame. -/
theorem frameAfter_of_withFrame {t' : Target} {r : Response} {g' : Frame} (hf : s.frameOf t = some f)
    (hg : t' = t → FrameAfter i t s.params f g') :
    ∃ f', ((s.withFrame t' g').answer r).frameOf t = some f' ∧ FrameAfter i t s.params f f' := by
  by_cases heq : t' = t
  · subst heq
    exact ⟨g', by simp, hg rfl⟩
  · refine ⟨f, ?_, .inl rfl⟩
    rw [State.answer_frameOf, State.withFrame_frameOf_other s g' (Ne.symm heq), hf]

/-- A constructed frame stays constructed through every command, and what becomes of it. -/
theorem exec_frameAfter (hf : s.frameOf t = some f) (hb : builds i ≠ some t) :
    ∃ u, exec i s = .next u ∧ ∃ f', u.frameOf t = some f' ∧ FrameAfter i t s.params f f' := by
  obtain ⟨t', hread⟩ | ⟨t', fld, v, hset⟩ | rfl | rfl | rfl | rfl := instr_kinds i
  · obtain ⟨r, h⟩ := exec_reader_answers hread s
    exact ⟨_, h, frameAfter_of_answer hf⟩
  · obtain ⟨-, h⟩ | ⟨-, -, h⟩ | ⟨g, -, hg, h⟩ := exec_setter_cases hset s
    · exact ⟨_, h, frameAfter_of_answer hf⟩
    · exact ⟨_, h, frameAfter_of_answer hf⟩
    · refine ⟨_, h, frameAfter_of_withFrame hf ?_⟩
      rintro rfl
      obtain rfl : f = g := by simpa [hf] using hg
      exact .inr (.inl ⟨fld, v, hset, rfl⟩)
  · exact ⟨_, construct_eq .master _ s, frameAfter_of_withFrame hf fun h => absurd (congrArg some h) hb⟩
  · exact ⟨_, construct_eq .controller _ s, frameAfter_of_withFrame hf fun h => absurd (congrArg some h) hb⟩
  · exact ⟨_, construct_eq .controller _ s, frameAfter_of_withFrame hf fun h => absurd (congrArg some h) hb⟩
  · obtain ⟨-, h⟩ | ⟨g, hg, h⟩ := exec_cfSetPayload_cases s
    · exact ⟨_, h, frameAfter_of_answer hf⟩
    · refine ⟨_, h, frameAfter_of_withFrame hf ?_⟩
      rintro rfl
      obtain rfl : f = g := Option.some.inj (hf.symm.trans hg)
      exact .inr (.inr ⟨rfl, rfl, _, _, _, _, _, rfl⟩)

/-- What a step does to a frame that it leaves constructed: it keeps it, or it runs a command that
constructs it anew or leaves the frame of `FrameAfter`. -/
theorem step_frameAfter (h : step s = .next u) (hf : s.frameOf t = some f) (hf' : u.frameOf t = some f') :
    f' = f ∨ ∃ i d rest, s.inputs = .command (encode i) d :: rest ∧
      (builds i = some t ∨ FrameAfter i t s.params f f') := by
  obtain ⟨-, ⟨-, rfl⟩ | ⟨rest, -, rfl⟩ | ⟨w, d, rest, hin, ⟨i, hd, hexec⟩ | ⟨-, rfl⟩⟩⟩ := step_cases h
  · rw [frameOf_withResponse, hf] at hf'
    exact .inl (Option.some.inj hf').symm
  · cases t <;> cases hf'
  · refine .inr ⟨i, d, rest, by rw [encode_of_decode hd, hin], ?_⟩
    by_cases hb : builds i = some t
    · exact .inl hb
    · obtain ⟨u', hu, g, hg, hafter⟩ := exec_frameAfter (s := present d rest s) (by simpa using hf) hb
      obtain rfl : u' = u := by simpa [hu] using hexec
      obtain rfl : g = f' := by simpa [hg] using hf'
      exact .inr hafter
  · rw [State.answer_frameOf, present_frameOf, hf] at hf'
    exact .inl (Option.some.inj hf').symm

end

/-! ### The unnamed bits of the master frame (R69, R110) -/

/-- Bit `j` of byte `k` belongs to the field. -/
def Covers (p : Params) (fld : Field) (k : Fin 8) (j : Nat) : Prop :=
  k = fld.byte ∧ fld.lo p ≤ j ∧ j < fld.lo p + fld.width

/-- Bit `j` of byte `k` of the frame `t` belongs to a field that a setter of that frame writes. -/
def Named (t : Target) (p : Params) (k : Fin 8) (j : Nat) : Prop :=
  ∃ i fld v, sets i = some (t, fld, v) ∧ Covers p fld k j

/-- The three controller header fields are no fields of the master frame (R62, R63). -/
theorem ne_of_sets_master {i : Instr} {fld : Field} {v : Byte} (h : sets i = some (.master, fld, v)) :
    fld ≠ .loginBit ∧ fld ≠ .querySelector ∧ fld ≠ .writeBit := by
  cases i <;> simp only [sets, reduceCtorEq, Option.some.injEq, Prod.mk.injEq, false_and] at h <;>
    obtain ⟨-, rfl, -⟩ := h <;> simp

/-- The named bits of the master frame, byte by byte. -/
theorem named_master_cases {p : Params} {k : Fin 8} {j : Nat} (h : Named .master p k j) :
    (k = 1 ∧ (p.destLo ≤ j ∧ j < p.destLo + 7 ∨ j = p.unkBit)) ∨
      (k = 2 ∧ p.typeLo ≤ j ∧ j < p.typeLo + 2) ∨ k = 3 ∨ k = 4 ∨
      (k = 5 ∧ j ≠ 3 ∧ j ≠ 0) ∨ (k = 6 ∧ j = 0) := by
  obtain ⟨i, fld, v, hset, hk, hlo, hhi⟩ := h
  obtain ⟨hlogin, hquery, hwrite⟩ := ne_of_sets_master hset
  cases fld <;> simp only [Field.byte, Field.lo, Field.width] at hk hlo hhi
  case destination => exact .inl ⟨hk, .inl ⟨hlo, hhi⟩⟩
  case unknownBit => exact .inl ⟨hk, .inr (by omega)⟩
  case registerType => exact .inr (.inl ⟨hk, hlo, hhi⟩)
  case loginBit => exact absurd rfl hlogin
  case querySelector => exact absurd rfl hquery
  case writeBit => exact absurd rfl hwrite
  all_goals omega

/-- A command other than MF_LOAD keeps every bit of MF that is in no named field. -/
theorem master_bit_of_frameAfter {i : Instr} {p : Params} {f f' : Frame} (h : FrameAfter i .master p f f')
    {k : Fin 8} {j : Nat} (hj : j < 8) (hn : ¬ Named .master p k j) :
    f'[k].getLsbD j = f[k].getLsbD j := by
  obtain rfl | ⟨fld, v, hset, rfl⟩ | ⟨-, ht, -⟩ := h
  · rfl
  · have hcov : ¬ Covers p fld k j := fun hcov => hn ⟨i, fld, v, hset, hcov⟩
    exact (putField_getLsbD (fld.pos p) v f k j hj).trans (if_neg hcov)
  · cases ht

/-- A step on anything but MF_LOAD keeps every bit of MF that is in no named field. -/
theorem step_master_bit {s u : State} {f f' : Frame} (h : step s = .next u) (hf : s.mf = some f)
    (hf' : u.mf = some f') (hload : ∀ d rest, s.inputs ≠ .command 0x0001 d :: rest)
    {k : Fin 8} {j : Nat} (hj : j < 8) (hn : ¬ Named .master s.params k j) :
    f'[k].getLsbD j = f[k].getLsbD j := by
  obtain rfl | ⟨i, d, rest, hin, hb | hafter⟩ := step_frameAfter (t := .master) h hf hf'
  · rfl
  · obtain rfl := eq_mfLoad_of_builds hb
    exact absurd hin (hload d rest)
  · exact master_bit_of_frameAfter hafter hj hn

/-- Settles O22: none of the bits the statement lists is in a named field of the master frame. -/
theorem masterUnnamedBitsChangeOnlyByLoad : Obligations.MasterUnnamedBitsChangeOnlyByLoad := by
  intro s u f f' h hf hf' hload
  have kept (k : Fin 8) (j : Nat) (hj : j < 8) (hn : ¬ Named .master s.params k j) :
      f'[k].getLsbD j = f[k].getLsbD j := step_master_bit h hf hf' hload hj hn
  refine ⟨BitVec.eq_of_getLsbD_eq fun j hj => kept 0 j hj fun hn => ?_,
    fun j hj hdest hunk => kept 1 j hj fun hn => ?_, fun j hj htype => kept 2 j hj fun hn => ?_,
    kept 5 3 (by decide) fun hn => ?_, kept 5 0 (by decide) fun hn => ?_,
    fun j hpos hj => kept 6 j hj fun hn => ?_, BitVec.eq_of_getLsbD_eq fun j hj => kept 7 j hj fun hn => ?_⟩
  all_goals
    have := named_master_cases hn
    omega

end Sys2Proof.MasterFrame

/-! PROOFS of the statements of 41_controller_frame.md: the six whole-frame commands of the controller frame
(R150 to R155), and the header bits of CF that only CF_DEFAULT and CF_LOAD write (R162). -/

namespace Sys2Proof.ControllerFrame

open Machine Rules BlockState Memory Encoding MasterFrame

/-! ### The bytes of the frames that CF_DEFAULT and CF_SET_PAYLOAD leave (R150, R154) -/

theorem canonicalDefault_getElem (p : Params) (k : Fin 8) :
    (canonicalDefault p)[k] = if k = 0 then BitVec.ofNat 8 p.controllerAddress else 0 := by
  fin_cases k <;> rfl

/-- A payload write keeps the header bytes. -/
theorem putPayload_getElem_header (p0 p1 p2 p3 p4 : Byte) (f : Frame) {k : Fin 8} (hk : k.val < 3) :
    (putPayload p0 p1 p2 p3 p4 f)[k] = f[k] := by
  obtain rfl | rfl | rfl : k = 0 ∨ k = 1 ∨ k = 2 := by omega
  all_goals rfl

/-- The payload that CF_SET_PAYLOAD takes from `DIN64`: lanes 0 to 4 become bytes 3 to 7. -/
theorem putPayload_lanes_getElem (d : DataWord) (f : Frame) (k : Fin 8) :
    (putPayload (lane d 0) (lane d 1) (lane d 2) (lane d 3) (lane d 4) f)[k] =
      if h : 3 ≤ k.val then laneOf d ⟨k.val - 3, by omega⟩ else f[k] := by
  split
  · next hk =>
    obtain rfl | rfl | rfl | rfl | rfl : k = 3 ∨ k = 4 ∨ k = 5 ∨ k = 6 ∨ k = 7 := by omega
    all_goals rfl
  · next hk => exact putPayload_getElem_header _ _ _ _ _ f (by omega)

/-! ### The whole-frame commands (R150 to R155) -/

/-- Settles O39: CF_DEFAULT is `construct` at the canonical default. -/
theorem cfDefaultConstructsTheCanonicalFrame : Obligations.CfDefaultConstructsTheCanonicalFrame :=
  ⟨frameWord_encode .cfDefault,
    constructs_of_construct (fun _ => rfl) fun s => canonicalDefault_getElem s.params⟩

/-- Settles O40: CF_LOAD is `construct` at the lanes of `DIN64`. -/
theorem cfLoadConstructsTheControllerFrame : Obligations.CfLoadConstructsTheControllerFrame :=
  ⟨frameWord_encode .cfLoad, constructs_of_construct (fun _ => rfl) fun s => frameOfLanes_getElem s.din64⟩

/-- Settles O41: CF_READ is `readDout` of the lanes of the frame. -/
theorem cfReadReturnsTheWholeFrame : Obligations.CfReadReturnsTheWholeFrame :=
  ⟨frameWord_encode .cfRead, reads64_of_readDout (fun _ => rfl) laneOf_lanesOfFrame⟩

/-- Settles O42: CF_GET_PAYLOAD is `readDout` of the lanes of the payload. -/
theorem cfGetPayloadReturnsBytesThreeToSeven : Obligations.CfGetPayloadReturnsBytesThreeToSeven :=
  ⟨frameWord_encode .cfGetPayload, reads64_of_readDout (fun _ => rfl) laneOf_lanesOfPayload⟩

/-- Settles O43: the two outcomes of CF_SET_PAYLOAD, with the bytes of the frame it leaves. -/
theorem cfSetPayloadWritesBytesThreeToSeven : Obligations.CfSetPayloadWritesBytesThreeToSeven := by
  refine ⟨frameWord_encode .cfSetPayload, fun s => ?_⟩
  obtain ⟨hnone, h⟩ | ⟨g, hg, h⟩ := exec_cfSetPayload_cases s
  · exact ⟨fun _ => h, fun f hf => by simp [hnone] at hf⟩
  · refine ⟨fun hnone => by simp [hnone] at hg, fun f hf => ?_⟩
    obtain rfl : f = g := by simpa [hf] using hg
    exact ⟨_, putPayload_lanes_getElem s.din64 f, h⟩

/-- Settles O44: CF_EQ is `compareFrame`. -/
theorem cfEqComparesEveryByte : Obligations.CfEqComparesEveryByte :=
  ⟨frameWord_encode .cfEq, compares_of_compareFrame fun _ => rfl⟩

/-! ### The unnamed header bits of the controller frame (R70, R162) -/

/-- Byte 0 is the controller address and every unnamed bit of bytes 1 and 2 is 0: what `CanonicalHeader`
says of the frame that CF holds. -/
def CanonicalFrame (p : Params) (f : Frame) : Prop :=
  f[0] = BitVec.ofNat 8 p.controllerAddress ∧
    (∀ j, j < 8 → j ≠ p.loginBit → f[1].getLsbD j = false) ∧
    (∀ j, j < 8 → ¬ (p.queryLo ≤ j ∧ j < p.queryLo + 2) → j ≠ p.writeBit → f[2].getLsbD j = false)

theorem canonicalHeader_iff (s : State) :
    CanonicalHeader s ↔
      (∀ din, Input.command 0x0011 din ∉ s.inputs) ∧ ∀ f, s.cf = some f → CanonicalFrame s.params f :=
  Iff.rfl

theorem canonicalFrame_canonicalDefault (p : Params) : CanonicalFrame p (canonicalDefault p) :=
  ⟨rfl, fun _ _ _ => BitVec.getLsbD_zero, fun _ _ _ _ => BitVec.getLsbD_zero⟩

/-- The three master header fields are no fields of the controller frame (R62, R63). -/
theorem ne_of_sets_controller {i : Instr} {fld : Field} {v : Byte} (h : sets i = some (.controller, fld, v)) :
    fld ≠ .destination ∧ fld ≠ .unknownBit ∧ fld ≠ .registerType := by
  cases i <;> simp only [sets, reduceCtorEq, Option.some.injEq, Prod.mk.injEq, false_and] at h <;>
    obtain ⟨-, rfl, -⟩ := h <;> simp

/-- The named bits of the controller frame: those of the header, byte by byte, and some of the payload. -/
theorem named_controller_cases {p : Params} {k : Fin 8} {j : Nat} (h : Named .controller p k j) :
    (k = 1 ∧ j = p.loginBit) ∨
      (k = 2 ∧ (p.queryLo ≤ j ∧ j < p.queryLo + 2 ∨ j = p.writeBit)) ∨ 3 ≤ k.val := by
  obtain ⟨i, fld, v, hset, hk, hlo, hhi⟩ := h
  obtain ⟨hdest, hunk, htype⟩ := ne_of_sets_controller hset
  cases fld <;> simp only [Field.byte, Field.lo, Field.width] at hk hlo hhi
  case destination => exact absurd rfl hdest
  case unknownBit => exact absurd rfl hunk
  case registerType => exact absurd rfl htype
  case loginBit => exact .inl ⟨hk, by omega⟩
  case querySelector => exact .inr (.inl ⟨hk, .inl ⟨hlo, hhi⟩⟩)
  case writeBit => exact .inr (.inl ⟨hk, .inr (by omega)⟩)
  all_goals exact .inr (.inr (by omega))

section
variable {i : Instr} {p : Params} {s u : State} {f f' : Frame}

/-- A command that does not construct CF keeps every header bit of it that is in no named field. -/
theorem controller_header_bit_of_frameAfter (h : FrameAfter i .controller p f f') {k : Fin 8} {j : Nat}
    (hk : k.val < 3) (hj : j < 8) (hn : ¬ Named .controller p k j) : f'[k].getLsbD j = f[k].getLsbD j := by
  obtain rfl | ⟨fld, v, hset, rfl⟩ | ⟨-, -, p0, p1, p2, p3, p4, rfl⟩ := h
  · rfl
  · have hcov : ¬ Covers p fld k j := fun hcov => hn ⟨i, fld, v, hset, hcov⟩
    exact (putField_getLsbD (fld.pos p) v f k j hj).trans (if_neg hcov)
  · rw [putPayload_getElem_header _ _ _ _ _ f hk]

/-- So it leaves a canonical header canonical. -/
theorem canonicalFrame_of_frameAfter (h : FrameAfter i .controller p f f') (hf : CanonicalFrame p f) :
    CanonicalFrame p f' := by
  obtain ⟨haddr, hlogin, hquery⟩ := hf
  have kept (k : Fin 8) (hk : k.val < 3) (j : Nat) (hj : j < 8) (hn : ¬ Named .controller p k j) :
      f'[k].getLsbD j = f[k].getLsbD j := controller_header_bit_of_frameAfter h hk hj hn
  refine ⟨(show f'[0] = f[0] from BitVec.eq_of_getLsbD_eq fun j hj =>
      kept 0 (by decide) j hj fun hn => ?_).trans haddr,
    fun j hj hne => (kept 1 (by decide) j hj fun hn => ?_).trans (hlogin j hj hne),
    fun j hj hsel hne => (kept 2 (by decide) j hj fun hn => ?_).trans (hquery j hj hsel hne)⟩
  all_goals
    have := named_controller_cases hn
    omega

/-- What a step leaves in CF came from it, from CF_DEFAULT or CF_LOAD, or from an edit of it. -/
theorem step_cf_cases (h : step s = .next u) (hf' : u.cf = some f') :
    s.cf = some f' ∨
      (∃ i d rest, s.inputs = .command (encode i) d :: rest ∧ (i = .cfDefault ∨ i = .cfLoad)) ∨
      ∃ i f, s.cf = some f ∧ FrameAfter i .controller s.params f f' := by
  cases hf : s.cf with
  | none =>
    obtain ⟨w, d, rest, hw, hin⟩ :=
      wordBuilds_of_step (t := .controller) h (by simp [hf]) (by simp [hf'])
    obtain ⟨i, hd, hb⟩ := exists_decode_of_wordBuilds hw
    exact .inr (.inl ⟨i, d, rest, by rw [encode_of_decode hd, hin], eq_cfDefault_or_cfLoad_of_builds hb⟩)
  | some f =>
    obtain rfl | ⟨i, d, rest, hin, hb | hafter⟩ := step_frameAfter (t := .controller) h hf hf'
    · exact .inl rfl
    · exact .inr (.inl ⟨i, d, rest, hin, eq_cfDefault_or_cfLoad_of_builds hb⟩)
    · exact .inr (.inr ⟨i, f, rfl, hafter⟩)

/-- A step on CF_DEFAULT leaves the canonical default in CF (R150). -/
theorem cf_of_step_cfDefault (h : step s = .next u) {d : DataWord} {rest : List Input}
    (hin : s.inputs = .command (encode .cfDefault) d :: rest) : u.cf = some (canonicalDefault s.params) := by
  obtain ⟨hp, -⟩ := step_effect h
  rw [stepRunsTheDecodedCommand s _ d rest .cfDefault hp hin (decode_encode _)] at h
  cases h
  rfl

/-- No step writes the parameters (R332). -/
theorem params_of_step (h : step s = .next u) : u.params = s.params := by
  obtain ⟨-, ⟨-, rfl⟩ | ⟨rest, -, rfl⟩ | ⟨w, d, rest, -, heff⟩⟩ := step_effect h
  · rfl
  · rfl
  · exact heff.params

end

/-- Settles O23: the inputs only get fewer, so CF_LOAD stays away, and without it a step leaves in CF the
old frame, the canonical default, or an edit that keeps the unnamed header bits. -/
theorem canonicalHeaderIsKept : Obligations.CanonicalHeaderIsKept := by
  intro s u hs h
  obtain ⟨hload, hcf⟩ := (canonicalHeader_iff s).1 hs
  refine (canonicalHeader_iff u).2 ⟨fun din hmem => ?_, fun f' hf' => ?_⟩
  · rw [inputs_of_step h] at hmem
    exact hload din (List.mem_of_mem_tail hmem)
  · rw [params_of_step h]
    obtain hf | ⟨i, d, rest, hin, rfl | rfl⟩ | ⟨i, f, hf, hafter⟩ := step_cf_cases h hf'
    · exact hcf f' hf
    · obtain rfl : canonicalDefault s.params = f' := by simpa [cf_of_step_cfDefault h hin] using hf'
      exact canonicalFrame_canonicalDefault s.params
    · exact absurd (hin ▸ List.mem_cons_self) (hload d)
    · exact canonicalFrame_of_frameAfter hafter (hcf f hf)

end Sys2Proof.ControllerFrame

/-! PROOFS of the statements of 42_status_view.md: what a status-view command reads and writes (R200, R201),
the twenty commands by their kinds (R202 to R221), and what the setters keep of the other fields (R222 to R224). -/

namespace Sys2Proof.StatusView

open Machine Rules Scope BlockState Memory Encoding MasterFrame ControllerFrame

/-! ### The fields of a frame and their bits (R62, R63, R64) -/

/-- The field `fld` is a field of the frame `t`: some command sets it there. -/
def HasField (t : Target) (fld : Field) : Prop := ∃ i v, sets i = some (t, fld, v)

/-- The one field of the frame `t` that bit `j` of byte `k` can belong to. -/
def fieldAt (t : Target) (p : Params) (k : Fin 8) (j : Nat) : Field :=
  match k with
  | 1 =>
    match t with
    | .master => if j = p.unkBit then .unknownBit else .destination
    | .controller => .loginBit
  | 2 =>
    match t with
    | .master => .registerType
    | .controller => if j = p.writeBit then .writeBit else .querySelector
  | 3 => if j < 1 then .enabled else if j < 4 then .mode else if j < 7 then .fan else .error
  | 4 => if j < 7 then .temperature else .economy
  | 5 => if j < 2 then .swingStep else if j < 3 then .swing else .updateMagic
  | _ => .present

section
variable {t : Target} {p : Params} {fld fld' : Field} {k : Fin 8} {j : Nat}

/-- A field that covers a bit is the bit's own field: under legal parameters the header fields of a byte lie
apart (R7), and the payload fields do by their places (R64). -/
theorem fieldAt_of_covers (hp : LegalParams p) (hfld : HasField t fld) (h : Covers p fld k j) :
    fieldAt t p k j = fld := by
  obtain ⟨-, hdest, hquery, -⟩ := hp
  obtain ⟨i, v, hset⟩ := hfld
  obtain ⟨rfl, hlo, hhi⟩ := h
  have hheader := hdest j
  have hselector := hquery j
  cases i <;> simp only [sets, reduceCtorEq, Option.some.injEq, Prod.mk.injEq] at hset <;>
    obtain ⟨rfl, rfl, rfl⟩ := hset <;> simp only [Field.lo, Field.width] at hlo hhi
  case mfSetDest => exact if_neg (by omega)
  case mfSetUnknown => exact if_pos (by omega)
  case mfSetType => rfl
  case cfSetLogin => rfl
  case cfSetWrite => exact if_pos (by omega)
  case cfSetQuery => exact if_neg (by omega)
  case setEnabled => exact if_pos (by omega)
  case setMode => exact (if_neg (by omega)).trans (if_pos (by omega))
  case setFan => exact (if_neg (by omega)).trans ((if_neg (by omega)).trans (if_pos (by omega)))
  case setError => exact (if_neg (by omega)).trans ((if_neg (by omega)).trans (if_neg (by omega)))
  case setTemp => exact if_pos (by omega)
  case setEconomy => exact if_neg (by omega)
  case setMagic => exact (if_neg (by omega)).trans (if_neg (by omega))
  case setSwing => exact (if_neg (by omega)).trans (if_pos (by omega))
  case setSwingStep => exact if_pos (by omega)
  case setPresent => rfl

/-- Two fields of one frame have no bit in common. -/
theorem not_covers_of_ne (hp : LegalParams p) (hfld : HasField t fld) (hfld' : HasField t fld')
    (hne : fld ≠ fld') (h : Covers p fld k j) : ¬ Covers p fld' k j := fun h' =>
  hne ((fieldAt_of_covers hp hfld h).symm.trans (fieldAt_of_covers hp hfld' h'))

/-- Every bit of a frame after a field is put (R11, R222). -/
theorem putField_getLsbD_of_covers (v : Byte) (f : Frame) (hj : j < 8) (h : Covers p fld k j) :
    (putField (fld.pos p) v f)[k].getLsbD j = v.getLsbD (j - fld.lo p) :=
  (putField_getLsbD (fld.pos p) v f k j hj).trans (if_pos h)

theorem putField_getLsbD_of_not_covers (v : Byte) (f : Frame) (hj : j < 8) (h : ¬ Covers p fld k j) :
    (putField (fld.pos p) v f)[k].getLsbD j = f[k].getLsbD j :=
  (putField_getLsbD (fld.pos p) v f k j hj).trans (if_neg h)

/-- `get` depends on the bits of its field alone. -/
theorem getField_congr {f g : Frame}
    (h : ∀ (k : Fin 8) (j : Nat), j < 8 → Covers p fld k j → f[k].getLsbD j = g[k].getLsbD j) :
    getField (fld.pos p) f = getField (fld.pos p) g := by
  refine BitVec.eq_of_getLsbD_eq fun j hj => ?_
  rw [getField_getLsbD _ _ _ hj, getField_getLsbD _ _ _ hj]
  by_cases hw : j < fld.width
  · congr 1
    by_cases hbyte : fld.lo p + j < 8
    · exact h fld.byte (fld.lo p + j) hbyte ⟨rfl, by omega, by omega⟩
    · exact (BitVec.getLsbD_of_ge _ _ (Nat.le_of_not_lt hbyte)).trans
        (BitVec.getLsbD_of_ge _ _ (Nat.le_of_not_lt hbyte)).symm
  · simp [Field.pos, hw]

/-- `get` on the number a statement speaks of. -/
theorem fieldNum_eq_getField (p : Params) (fld : Field) (f : Frame) :
    fieldNum f[fld.byte] (fld.lo p) fld.width = (getField (fld.pos p) f).toNat :=
  (getField_toNat_eq_fieldNum (fld.pos p) f).symm

end

/-! ### The getter of a field (R104 to R108, R156 to R160, R202 to R220) -/

/-- What the getter of the field shows on `D8` for a raw field value: the variant code of an enumeration
(R65 to R68), else the raw value. -/
def shown : Field → Byte → Byte
  | .destination, raw => destinationCode (decodeDestination raw)
  | .registerType, raw | .querySelector, raw => registerTypeCode (decodeRegisterType raw)
  | .mode, raw => modeCode (decodeMode raw)
  | .fan, raw => fanCode (decodeFan raw)
  | .unknownBit, raw | .loginBit, raw | .writeBit, raw | .enabled, raw | .error, raw | .temperature, raw
  | .economy, raw | .updateMagic, raw | .swing, raw | .swingStep, raw | .present, raw => raw

theorem exec_getter {t : Target} {fld : Field} (h : HasField t fld) (s : State) :
    exec (fld.getter t) s = readD8 t (fun f => shown fld (getField (fld.pos s.params) f)) s := by
  obtain ⟨i, v, hset⟩ := h
  cases i <;> simp only [sets, reduceCtorEq, Option.some.injEq, Prod.mk.injEq] at hset <;>
    obtain ⟨rfl, rfl, rfl⟩ := hset <;> rfl

/-- A mode is shown as its raw code where that is a variant's, else as UNKNOWN's (R65). -/
theorem modeCode_decode_toNat (raw : Byte) :
    (modeCode (decodeMode raw)).toNat = if 1 ≤ raw.toNat ∧ raw.toNat ≤ 5 then raw.toNat else 0 := by
  unfold decodeMode
  split
  case h_6 _ h1 h2 h3 h4 h5 =>
    rw [imp_false] at h1 h2 h3 h4 h5
    exact Eq.symm (if_neg (by omega))
  all_goals
    next h => rw [h]; rfl

/-- A fan speed is shown as its raw code where that is a variant's, else as UNKNOWN's (R66). -/
theorem fanCode_decode_toNat (raw : Byte) :
    (fanCode (decodeFan raw)).toNat = if raw.toNat ≤ 4 then raw.toNat else 5 := by
  unfold decodeFan
  split
  case h_6 _ h0 h1 h2 h3 h4 =>
    rw [imp_false] at h0 h1 h2 h3 h4
    exact Eq.symm (if_neg (by omega))
  all_goals
    next h => rw [h]; rfl

/-- The getter shows every value that the setter writes as it was written (R223). -/
theorem shown_of_legal {fld : Field} {v : Byte} (h : fld.Legal v) : shown fld v = v := by
  apply BitVec.eq_of_toNat_eq
  cases fld <;> simp only [Field.Legal] at h
  case destination =>
    refine (destinationCode_decode_toNat v).trans (if_pos ?_)
    obtain rfl | rfl | rfl := h <;> simp
  case registerType => exact registerTypeCode_decode_toNat (by omega)
  case querySelector => exact registerTypeCode_decode_toNat (by omega)
  case mode => exact (modeCode_decode_toNat v).trans (by split <;> omega)
  case fan => exact (fanCode_decode_toNat v).trans (by split <;> omega)
  all_goals rfl

/-! ### A field that the commands spare keeps its value (R223) -/

/-- The field `fld` of the constructed frame `t` holds the number `v`: what `SparedFieldHolds` says of the
frames. -/
def Holds (t : Target) (fld : Field) (v : Nat) (s : State) : Prop :=
  ∃ f, s.frameOf t = some f ∧ fieldNum f[fld.byte] (fld.lo s.params) fld.width = v

theorem sparedFieldHolds_iff {t : Target} {fld : Field} {v : Nat} {s : State} :
    SparedFieldHolds t fld v s ↔ LegalParams s.params ∧ Input.reset ∉ s.inputs ∧
      (∀ w d, Input.command w d ∈ s.inputs → ∀ j, decode w = .ok j → Spares t fld j) ∧ Holds t fld v s :=
  Iff.rfl

section
variable {t : Target} {fld : Field} {i : Instr}

/-- A command that spares a field of a frame does not construct the frame. -/
theorem builds_ne_of_spares (h : Spares t fld i) : builds i ≠ some t := by
  obtain ⟨-, hmaster, hcontroller⟩ := h
  intro hb
  cases t with
  | master => exact hmaster rfl (eq_mfLoad_of_builds hb)
  | controller =>
    obtain ⟨hload, hdefault, -⟩ := hcontroller rfl
    obtain hi | hi := eq_cfDefault_or_cfLoad_of_builds hb
    · exact hdefault hi
    · exact hload hi

/-- What a sparing command leaves of the frame has the field's bits as they were. -/
theorem getField_eq_of_spares {p : Params} {f f' : Frame} (hp : LegalParams p) (hfld : HasField t fld)
    (hs : Spares t fld i) (h : FrameAfter i t p f f') :
    getField (fld.pos p) f' = getField (fld.pos p) f := by
  obtain ⟨hset, -, hcontroller⟩ := hs
  obtain rfl | ⟨fld', v, hset', rfl⟩ | ⟨hi, ht, p0, p1, p2, p3, p4, rfl⟩ := h
  · rfl
  · have hne : fld ≠ fld' := by
      rintro rfl
      exact hset v hset'
    exact getField_congr fun k j hj hcov =>
      putField_getLsbD_of_not_covers v f hj (not_covers_of_ne hp hfld ⟨i, v, hset'⟩ hne hcov)
  · obtain ⟨-, -, hpayload⟩ := hcontroller ht
    have hheader : fld.byte.val < 3 := Nat.lt_of_not_le fun h => hpayload h hi
    refine getField_congr fun k j _ ⟨hk, _⟩ => ?_
    rw [putPayload_getElem_header _ _ _ _ _ f (hk ▸ hheader)]

end

section
variable {t : Target} {fld : Field} {v : Nat} {s u : State}

/-- A step on no reset event, and on no command that touches the field, leaves it holding its value. -/
theorem Holds.of_step (hs : Holds t fld v s) (hfld : HasField t fld) (h : step s = .next u)
    (hreset : ∀ rest, s.inputs ≠ .reset :: rest)
    (hspare : ∀ w d rest, s.inputs = .command w d :: rest → ∀ j, decode w = .ok j → Spares t fld j) :
    Holds t fld v u := by
  obtain ⟨f, hf, hv⟩ := hs
  obtain ⟨hp, -⟩ := step_effect h
  have hsome : (u.frameOf t).isSome = true := by
    by_contra hnone
    obtain ⟨rest, hin⟩ := reset_of_step (t := t) h (by simp [hf]) (by simpa using hnone)
    exact hreset rest hin
  obtain ⟨f', hf'⟩ := Option.isSome_iff_exists.1 hsome
  refine ⟨f', hf', ?_⟩
  rw [params_of_step h, ← hv]
  obtain rfl | ⟨i, d, rest, hin, hafter⟩ := step_frameAfter h hf hf'
  · rfl
  · have hsp : Spares t fld i := hspare _ d rest hin i (decode_encode i)
    have hafter := hafter.resolve_left (builds_ne_of_spares hsp)
    rw [fieldNum_eq_getField, fieldNum_eq_getField, getField_eq_of_spares hp hfld hsp hafter]

end

/-- Settles O58: a step only drops inputs and keeps the parameters, and it keeps the field's value. -/
theorem sparedFieldIsKept : Obligations.SparedFieldIsKept := by
  intro i t fld imm v hset s u hs h
  obtain ⟨hp, hreset, hspare, hholds⟩ := sparedFieldHolds_iff.1 hs
  have hsub (x : Input) (hx : x ∈ u.inputs) : x ∈ s.inputs :=
    List.mem_of_mem_tail (inputs_of_step h ▸ hx)
  refine sparedFieldHolds_iff.2 ⟨params_of_step h ▸ hp, fun hmem => hreset (hsub _ hmem),
    fun w d hmem => hspare w d (hsub _ hmem), hholds.of_step ⟨i, imm, hset⟩ h ?_ ?_⟩
  · exact fun rest hin => hreset (hin ▸ List.mem_cons_self)
  · exact fun w d rest hin => hspare w d (hin ▸ List.mem_cons_self)

/-! ### Read after write (R223) -/

section
variable {t : Target} {fld : Field} {v : Byte} {s : State} {rest : List Input}

/-- A step on a setter with a legal immediate leaves its field holding the immediate. -/
theorem step_setter_holds {i : Instr} {f : Frame} {d : DataWord} (hp : LegalParams s.params)
    (hset : sets i = some (t, fld, v)) (hlegal : fld.Legal v) (hf : s.frameOf t = some f)
    (hin : s.inputs = .command (encode i) d :: rest) : ∃ u, step s = .next u ∧ Holds t fld v.toNat u := by
  have hexec := exec_setter_ok hset hlegal (s := present d rest s) (f := f) (by simpa using hf)
  refine ⟨_, (stepRunsTheDecodedCommand s _ d rest i hp hin (decode_encode i)).trans hexec,
    putField (fld.pos s.params) v f, by simp, ?_⟩
  rw [State.answer_params, State.withFrame_params, present_params, fieldNum_eq_getField,
    getField_putField _ _ _ (fld.lo_add_width_le hp) (Field.legal_lt hlegal)]

/-- A step on the getter of a field that holds a legal value answers that value. -/
theorem step_getter {d : DataWord} (hp : LegalParams s.params) (hfld : HasField t fld) (hlegal : fld.Legal v)
    (hs : Holds t fld v.toNat s) (hin : s.inputs = .command (encode (fld.getter t)) d :: rest) :
    step s = .next ((present d rest s).answer { d8 := v }) := by
  obtain ⟨f, hf, hv⟩ := hs
  have hraw : getField (fld.pos s.params) f = v :=
    BitVec.eq_of_toNat_eq ((fieldNum_eq_getField s.params fld f).symm.trans hv)
  calc step s
    _ = exec (fld.getter t) (present d rest s) :=
        stepRunsTheDecodedCommand s _ d rest _ hp hin (decode_encode _)
    _ = readD8 t (fun f => shown fld (getField (fld.pos s.params) f)) (present d rest s) := exec_getter hfld _
    _ = .next ((present d rest s).answer { d8 := shown fld (getField (fld.pos s.params) f) }) :=
        needFrame_some (by simpa using hf) _
    _ = .next ((present d rest s).answer { d8 := v }) := by rw [hraw, shown_of_legal hlegal]

/-- A run over command words that spare a field consumes them and leaves the field holding its value. -/
theorem run_holds {n : Nat} (hfld : HasField t fld) (mids : List (CmdWord × DataWord)) (s : State)
    (hp : LegalParams s.params) (hs : Holds t fld n s)
    (hspare : ∀ m ∈ mids, ∀ j, decode m.1 = .ok j → Spares t fld j)
    (hin : s.inputs = mids.map (fun m => Input.command m.1 m.2) ++ rest) :
    ∃ u : State, LegalParams u.params ∧ Holds t fld n u ∧ u.inputs = rest ∧
      ∀ k, Host.Core.run Sys2Proof.core (mids.length + k) s = Host.Core.run Sys2Proof.core k u := by
  induction mids generalizing s with
  | nil => exact ⟨s, hp, hs, hin, fun k => by rw [List.length_nil, Nat.zero_add]⟩
  | cons m mids ih =>
    obtain ⟨hm, hmids⟩ := List.forall_mem_cons.1 hspare
    obtain ⟨u, h⟩ := step_isNext_of_legal hp
    have hu : Holds t fld n u := by
      refine hs.of_step hfld h (fun rest' hin' => ?_) fun w d rest' hin' => ?_
      · rw [hin] at hin'
        cases hin'
      · rw [hin] at hin'
        cases hin'
        exact hm
    obtain ⟨u', hp', hu', hrest, hrun⟩ :=
      ih u (params_of_step h ▸ hp) hu hmids (by rw [inputs_of_step h, hin]; rfl)
    refine ⟨u', hp', hu', hrest, fun k => ?_⟩
    rw [← hrun k, List.length_cons, Nat.succ_add]
    exact run_succ Sys2Proof.core h _

end

/-- Settles O59: the setter's step writes the field, and only later inputs remain. -/
theorem setterEstablishesTheFieldsValue : Obligations.SetterEstablishesTheFieldsValue := by
  intro s i t fld v f d rest hp hset hlegal hf hin hreset hspare
  obtain ⟨u, h, hu⟩ := step_setter_holds hp hset hlegal hf hin
  have hrest : u.inputs = rest := by rw [inputs_of_step h, hin]; rfl
  exact ⟨u, h, sparedFieldHolds_iff.2
    ⟨params_of_step h ▸ hp, hrest.symm ▸ hreset, hrest.symm ▸ hspare, hu⟩⟩

/-- Settles O30: the setter's step, the run over the sparing words, the getter's step. -/
theorem getterReturnsTheWrittenValue : Obligations.GetterReturnsTheWrittenValue := by
  intro s i t fld v f mids d₀ d₁ rest hp hset hlegal hf hspare hin
  have hfld : HasField t fld := ⟨i, v, hset⟩
  obtain ⟨u, h, hu⟩ := step_setter_holds hp hset hlegal hf hin
  obtain ⟨u', hp', hu', hrest, hrun⟩ := run_holds hfld mids u (params_of_step h ▸ hp) hu hspare
    (by rw [inputs_of_step h, hin]; rfl)
  refine ⟨(present d₁ rest u').answer { d8 := v }, ?_, rfl, rfl⟩
  calc Host.Core.run Sys2Proof.core (mids.length + 2) s
    _ = Host.Core.run Sys2Proof.core (mids.length + 1) u := run_succ Sys2Proof.core h _
    _ = Host.Core.run Sys2Proof.core 1 u' := hrun 1
    _ = Host.Core.run Sys2Proof.core 0 ((present d₁ rest u').answer { d8 := v }) :=
        run_succ Sys2Proof.core (step_getter hp' hfld hlegal hu' hrest) 0
    _ = .next ((present d₁ rest u').answer { d8 := v }) := rfl

/-! ### The words of a status-view command (R72, R75) -/

/-- The T bit as a number, and as the statements speak of it. -/
theorem targetBit_toNat_eq_iff (t : Target) (b : Bool) :
    (targetBit t).toNat = b.toNat ↔ (b = true ↔ t = .controller) := by
  cases t <;> cases b <;> simp [targetBit]

/-- A word with RSV = 0 is fixed by its opcode, its T bit and its immediate. -/
theorem cmdWord_eq_iff {w v : CmdWord} {imm : Byte} {t : Target} {op : BitVec 6} (hv : v.toNat = op.toNat) :
    cmdWord imm (targetBit t) op = w ↔
      w &&& 0x007F = v ∧ (w.getLsbD 7 = true ↔ t = .controller) ∧ immField w = imm := by
  have hop := op.isLt
  have hbit := (targetBit t).toNat_le
  have hlow : (w &&& 0x007F).toNat = w.toNat % 2 ^ 7 := and_lowMask_toNat w _ 7 rfl
  have ht : (w.getLsbD 7).toNat = w.toNat / 2 ^ 7 % 2 := Nat.toNat_testBit _ _
  rw [← targetBit_toNat_eq_iff, ht, ← BitVec.toNat_inj, ← BitVec.toNat_inj (x := w &&& 0x007F),
    ← BitVec.toNat_inj (x := immField w), cmdWord_toNat, hlow, immField_toNat, hv]
  omega

theorem viewSetWord_of_encode {i : Target → Byte → Instr} {v : CmdWord} {op : BitVec 6}
    (henc : ∀ t imm, encode (i t imm) = cmdWord imm (targetBit t) op) (hv : v.toNat = op.toNat) :
    ViewSetWord i v := by
  intro w t imm
  rw [decode_eq_ok_iff, henc]
  exact cmdWord_eq_iff hv

/-- The mask of a getter holds the mask of a setter and the immediate's byte. -/
theorem and_FF7F_eq_iff {w v : CmdWord} {op : BitVec 6} (hv : v.toNat = op.toNat) :
    w &&& 0xFF7F = v ↔ w &&& 0x007F = v ∧ immField w = 0 := by
  have hop := op.isLt
  have hlow : (w &&& 0x007F).toNat = w.toNat % 2 ^ 7 := and_lowMask_toNat w _ 7 rfl
  rw [← BitVec.toNat_inj, ← BitVec.toNat_inj (x := w &&& 0x007F), ← BitVec.toNat_inj (x := immField w),
    and_FF7F_toNat, hlow, immField_toNat, hv, show (0 : Byte).toNat = 0 from rfl]
  omega

theorem viewGetWord_of_encode {i : Target → Instr} {v : CmdWord} {op : BitVec 6}
    (henc : ∀ t, encode (i t) = cmdWord 0 (targetBit t) op) (hv : v.toNat = op.toNat) :
    ViewGetWord i v := by
  intro w t
  rw [decode_eq_ok_iff, henc, cmdWord_eq_iff hv, and_FF7F_eq_iff hv, and_assoc, and_comm (b := immField w = 0)]

/-! ### The status-view getters (R202 to R220) -/

/-- A getter without decoding has the words of its row and answers the number in its field. -/
theorem rawGetter {i : Target → Instr} {v : CmdWord} {op : BitVec 6} {fp : FieldPos}
    (henc : ∀ t, encode (i t) = cmdWord 0 (targetBit t) op) (hv : v.toNat = op.toNat)
    (hexec : ∀ t s, exec (i t) s = getRaw t fp s) :
    ViewGetWord i v ∧ ∀ t, Reads8 (i t) t (fun _ f => fieldNum f[fp.byte] fp.lo fp.width) :=
  ⟨viewGetWord_of_encode henc hv,
    fun t => reads8_of_readD8 (v := fun _ => getField fp) (hexec t) fun _ => getField_toNat_eq_fieldNum fp⟩

/-- Settles O49: each getter is the raw `get` of its one-bit field. -/
theorem viewFlagGettersReadTheirBit : Obligations.ViewFlagGettersReadTheirBit :=
  ⟨rawGetter (op := 0x20) (fp := enabledField) (fun _ => rfl) rfl fun _ _ => rfl,
    rawGetter (op := 0x26) (fp := errorField) (fun _ => rfl) rfl fun _ _ => rfl,
    rawGetter (op := 0x2A) (fp := economyField) (fun _ => rfl) rfl fun _ _ => rfl,
    rawGetter (op := 0x2E) (fp := swingField) (fun _ => rfl) rfl fun _ _ => rfl,
    rawGetter (op := 0x30) (fp := swingStepField) (fun _ => rfl) rfl fun _ _ => rfl,
    rawGetter (op := 0x32) (fp := presentField) (fun _ => rfl) rfl fun _ _ => rfl⟩

/-- Settles O55: both getters are the raw `get` of their field. -/
theorem temperatureAndMagicAreReadRaw : Obligations.TemperatureAndMagicAreReadRaw :=
  ⟨rawGetter (op := 0x28) (fp := tempField) (fun _ => rfl) rfl fun _ _ => rfl,
    rawGetter (op := 0x2C) (fp := magicField) (fun _ => rfl) rfl fun _ _ => rfl⟩

/-- Settles O51: GET_MODE decodes the raw number of the mode. -/
theorem getModeDecodesTheMode : Obligations.GetModeDecodesTheMode := by
  refine ⟨viewGetWord_of_encode (op := 0x22) (fun _ => rfl) rfl,
    fun t => reads8_of_readD8 (fun _ => rfl) fun s f => ?_⟩
  rw [modeCode_decode_toNat, getField_toNat_eq_fieldNum]
  rfl

/-- Settles O53: GET_FAN decodes the raw number of the fan speed. -/
theorem getFanDecodesTheFan : Obligations.GetFanDecodesTheFan := by
  refine ⟨viewGetWord_of_encode (op := 0x24) (fun _ => rfl) rfl,
    fun t => reads8_of_readD8 (fun _ => rfl) fun s f => ?_⟩
  rw [fanCode_decode_toNat, getField_toNat_eq_fieldNum]
  rfl

/-! ### The status-view setters (R203 to R221) -/

/-- A setter of a payload field has the words of its row and writes its field, whose place is no parameter. -/
theorem payloadSetter {i : Target → Byte → Instr} {v : CmdWord} {op : BitVec 6} {fp : FieldPos}
    {legal : Byte → Bool} {L : Byte → Prop}
    (henc : ∀ t imm, encode (i t imm) = cmdWord imm (targetBit t) op) (hv : v.toNat = op.toNat)
    (hexec : ∀ t s imm, exec (i t imm) s = setField t fp (legal imm) imm s)
    (hl : ∀ imm, L imm ↔ legal imm = true) :
    ViewSetWord i v ∧ ∀ t, Writes (i t) t L fp.byte (fun _ => fp.lo) fp.width :=
  ⟨viewSetWord_of_encode henc hv, fun t => writes_of_setField (fp := fun _ => fp) (hexec t) hl fun _ => rfl⟩

/-- Settles O50: each setter is `setField` at its one-bit field. -/
theorem viewFlagSettersWriteTheirBit : Obligations.ViewFlagSettersWriteTheirBit :=
  ⟨payloadSetter (op := 0x21) (fp := enabledField) (fun _ _ => rfl) rfl (fun _ _ _ => rfl) legalFlag_iff,
    payloadSetter (op := 0x27) (fp := errorField) (fun _ _ => rfl) rfl (fun _ _ _ => rfl) legalFlag_iff,
    payloadSetter (op := 0x2B) (fp := economyField) (fun _ _ => rfl) rfl (fun _ _ _ => rfl) legalFlag_iff,
    payloadSetter (op := 0x2F) (fp := swingField) (fun _ _ => rfl) rfl (fun _ _ _ => rfl) legalFlag_iff,
    payloadSetter (op := 0x31) (fp := swingStepField) (fun _ _ => rfl) rfl (fun _ _ _ => rfl) legalFlag_iff,
    payloadSetter (op := 0x33) (fp := presentField) (fun _ _ => rfl) rfl (fun _ _ _ => rfl) legalFlag_iff⟩

/-- Settles O52: SET_MODE is `setField` at the mode, with the codes 0 to 5. -/
theorem setModeWritesTheMode : Obligations.SetModeWritesTheMode :=
  payloadSetter (op := 0x23) (fp := modeField) (fun _ _ => rfl) rfl (fun _ _ _ => rfl)
    fun imm => by simp [legalMode]

/-- Settles O54: SET_FAN is `setField` at the fan speed, with the codes 0 to 5. -/
theorem setFanWritesTheFan : Obligations.SetFanWritesTheFan :=
  payloadSetter (op := 0x25) (fp := fanField) (fun _ _ => rfl) rfl (fun _ _ _ => rfl)
    fun imm => by simp [legalFan]

/-- Settles O56: SET_TEMP is `setField` at the temperature, with every number of seven bits. -/
theorem setTempWritesTheTemperature : Obligations.SetTempWritesTheTemperature :=
  payloadSetter (op := 0x29) (fp := tempField) (fun _ _ => rfl) rfl (fun _ _ _ => rfl)
    fun imm => by simp [legalTemp]

/-- Settles O57: SET_MAGIC is `setField` at the update-magic, with every number of four bits. -/
theorem setMagicWritesUpdateMagic : Obligations.SetMagicWritesUpdateMagic :=
  payloadSetter (op := 0x2D) (fp := magicField) (fun _ _ => rfl) rfl (fun _ _ _ => rfl)
    fun imm => by simp [legalMagic]

/-! ### What a setter does to the two frames (R222, R224) -/

/-- The frame after a setter: the field is put if the immediate is legal. -/
def putIf (legal : Bool) (fp : FieldPos) (v : Byte) (f : Frame) : Frame := if legal then putField fp v f else f

/-- The two frame registers after an edit of the one that `t` names, if it is constructed. -/
def editedAt (t : Target) (edit : Frame → Frame) (frames : Target → Option Frame) : Target → Option Frame :=
  fun t' => if t' = t then (frames t').map edit else frames t'

/-- An answer edits nothing. -/
theorem answer_frameOf_eq_editedAt (s : State) (r : Response) (t : Target) :
    (s.answer r).frameOf = editedAt t id s.frameOf := by
  funext t'
  simp [editedAt]

/-- Where the frame is absent, an answer is every edit of it. -/
theorem answer_frameOf_of_none {s : State} {t : Target} (hf : s.frameOf t = none) (r : Response)
    (edit : Frame → Frame) : (s.answer r).frameOf = editedAt t edit s.frameOf := by
  funext t'
  unfold editedAt
  split
  · next ht => rw [ht, State.answer_frameOf, hf, Option.map_none]
  · exact State.answer_frameOf s r t'

theorem withFrame_frameOf_eq_editedAt {s : State} {t : Target} {f : Frame} (hf : s.frameOf t = some f)
    (edit : Frame → Frame) (r : Response) :
    ((s.withFrame t (edit f)).answer r).frameOf = editedAt t edit s.frameOf := by
  funext t'
  unfold editedAt
  split
  · next ht => rw [ht, State.answer_frameOf, State.withFrame_frameOf, hf, Option.map_some]
  · next ht => rw [State.answer_frameOf, State.withFrame_frameOf_other s _ ht]

/-- A setter's effect on the frames, whether or not it ends with OK. -/
theorem exec_setter_frames {i : Instr} {t : Target} {fld : Field} {v : Byte} (hset : sets i = some (t, fld, v)) :
    ∃ legal : Bool, (legal = true ↔ fld.Legal v) ∧ ∀ s, ∃ u, exec i s = .next u ∧ u.params = s.params ∧
      u.frameOf = editedAt t (putIf legal (fld.pos s.params) v) s.frameOf := by
  obtain ⟨legal, hl, hexec⟩ := exec_setter hset
  refine ⟨legal, hl, fun s => ?_⟩
  rw [hexec]
  cases legal with
  | false => exact ⟨_, raise_eq .illegalOperand s, rfl, answer_frameOf_eq_editedAt s _ t⟩
  | true =>
    cases hf : s.frameOf t with
    | none => exact ⟨_, needFrame_none hf _, rfl, answer_frameOf_of_none hf _ _⟩
    | some f => exact ⟨_, needFrame_some hf _, by simp, withFrame_frameOf_eq_editedAt hf _ _⟩

/-- Settles O29: a setter that ends with OK has put its field into the selected frame. -/
theorem settersChangeOnlyTheirField : Obligations.SettersChangeOnlyTheirField := by
  intro i t fld v s u r hset h hr hok
  obtain ⟨-, hexec⟩ | ⟨-, -, hexec⟩ | ⟨f, -, hf, hexec⟩ := exec_setter_cases hset s <;>
    obtain rfl : _ = u := Host.Outcome.next.inj (hexec.symm.trans h) <;>
    obtain rfl : _ = r := Option.some.inj hr
  · cases hok
  · cases hok
  · exact ⟨⟨f, _, hf, by simp, fun k j hj hcov => putField_getLsbD_of_not_covers v f hj hcov⟩,
      fun t' ht => by simp [State.withFrame_frameOf_other s _ ht]⟩

section
variable {p : Params} {t : Target} {fld fld' : Field} {v v' : Byte}

/-- Puts into two fields of one frame commute (R224). -/
theorem putField_comm (hp : LegalParams p) (hfld : HasField t fld) (hfld' : HasField t fld')
    (hne : fld ≠ fld') (f : Frame) :
    putField (fld.pos p) v (putField (fld'.pos p) v' f) = putField (fld'.pos p) v' (putField (fld.pos p) v f) := by
  refine frame_ext_bits fun k j hj => ?_
  by_cases h : Covers p fld k j
  · have h' : ¬ Covers p fld' k j := not_covers_of_ne hp hfld hfld' hne h
    rw [putField_getLsbD_of_covers _ _ hj h, putField_getLsbD_of_not_covers _ _ hj h',
      putField_getLsbD_of_covers _ _ hj h]
  · rw [putField_getLsbD_of_not_covers _ _ hj h]
    by_cases h' : Covers p fld' k j
    · rw [putField_getLsbD_of_covers _ _ hj h', putField_getLsbD_of_covers _ _ hj h']
    · rw [putField_getLsbD_of_not_covers _ _ hj h', putField_getLsbD_of_not_covers _ _ hj h',
        putField_getLsbD_of_not_covers _ _ hj h]

theorem putIf_comm (hp : LegalParams p) (hfld : HasField t fld) (hfld' : HasField t fld')
    (hne : fld ≠ fld') (l l' : Bool) (f : Frame) :
    putIf l (fld.pos p) v (putIf l' (fld'.pos p) v' f) = putIf l' (fld'.pos p) v' (putIf l (fld.pos p) v f) := by
  cases l with
  | false => rfl
  | true => cases l' with
    | false => rfl
    | true => exact putField_comm hp hfld hfld' hne f

/-- A legal put replaces what was put into the same field before (R224). -/
theorem putIf_true_putIf (fp : FieldPos) (v v' : Byte) (l : Bool) (f : Frame) :
    putIf true fp v' (putIf l fp v f) = putIf true fp v' f := by
  cases l with
  | false => rfl
  | true =>
    refine frame_ext_bits fun k j hj => ?_
    simp only [putIf, if_true, putField_getLsbD _ _ _ _ _ hj]
    split <;> rfl

end

/-- Edits of the two frames commute, as do edits of one frame that commute. -/
theorem editedAt_comm {t t' : Target} {e e' : Frame → Frame} (h : t = t' → ∀ f, e (e' f) = e' (e f))
    (frames : Target → Option Frame) :
    editedAt t e (editedAt t' e' frames) = editedAt t' e' (editedAt t e frames) := by
  funext τ
  by_cases ht : τ = t
  · by_cases ht' : τ = t'
    · simp [editedAt, ← ht, ← ht', Function.comp_def, h (ht.symm.trans ht')]
    · simp [editedAt, ht']
  · simp [editedAt, ht]

/-- An edit that absorbs another one of the same frame. -/
theorem editedAt_absorb {t : Target} {e e' : Frame → Frame} (h : ∀ f, e' (e f) = e' f)
    (frames : Target → Option Frame) : editedAt t e' (editedAt t e frames) = editedAt t e' frames := by
  funext τ
  by_cases ht : τ = t <;> simp [editedAt, ht, Function.comp_def, h]

/-- Two states hold the same frames if they do for each target. -/
theorem frames_eq {b e : State} (h : b.frameOf = e.frameOf) : b.mf = e.mf ∧ b.cf = e.cf :=
  ⟨congrFun h .master, congrFun h .controller⟩

/-- Settles O31: the frames after two setters are two edits, which commute in different frames and in
different fields of one frame; in one field the later absorbs the earlier. -/
theorem settersCommute : Obligations.SettersCommute := by
  intro i j t t' fld fld' v v' s hp hi hj
  obtain ⟨l, -, hexec⟩ := exec_setter_frames hi
  obtain ⟨l', hl', hexec'⟩ := exec_setter_frames hj
  obtain ⟨a, hia, hpa, ha⟩ := hexec s
  obtain ⟨b, hjb, -, hb⟩ := hexec' a
  obtain ⟨c, hjc, hpc, hc⟩ := hexec' s
  obtain ⟨e, hie, -, he⟩ := hexec c
  rw [hpa, ha] at hb
  rw [hpc, hc] at he
  refine ⟨a, b, c, e, hia, hjb, hjc, hie, fun hne => frames_eq ?_, fun heq hlegal => frames_eq ?_⟩
  · rw [hb, he]
    refine editedAt_comm (fun ht f => ?_) s.frameOf
    subst ht
    have hfld : fld' ≠ fld := fun hfld => hne (by rw [hfld])
    exact putIf_comm hp ⟨j, v', hj⟩ ⟨i, v, hi⟩ hfld l' l f
  · obtain ⟨rfl, rfl⟩ := Prod.mk.inj heq
    rw [hb, hc, hl'.2 hlegal]
    exact editedAt_absorb (putIf_true_putIf _ v v' l) s.frameOf

/-! ### What a status-view command reads and writes (R200, R201) -/

/-- Two frames have the same payload, bytes 3 to 7. -/
def SamePayload (f g : Frame) : Prop := ∀ k : Fin 8, 3 ≤ k.val → f[k] = g[k]

/-- A command that works on the payload of the frame `t`: it edits the frame and answers; the edit keeps the
header bytes, and the answer and the payload after it depend on the payload before alone. -/
def OnPayload (i : Instr) (t : Target) : Prop :=
  ∃ (edit : Params → Frame → Frame) (resp : Params → Frame → Response),
    (∀ p f (k : Fin 8), k.val < 3 → (edit p f)[k] = f[k]) ∧
    (∀ p f g, SamePayload f g → resp p f = resp p g ∧ SamePayload (edit p f) (edit p g)) ∧
    ∀ s, exec i s = needFrame t s fun f =>
      .next ((s.withFrame t (edit s.params f)).answer (resp s.params f))

/-- The status-view commands are the getters and the setters of the payload fields. -/
theorem view_kinds {i : Instr} {t : Target} (h : viewTarget i = some t) :
    (∃ fld, HasField t fld ∧ 3 ≤ fld.byte.val ∧ i = fld.getter t) ∨
      ∃ fld v, 3 ≤ fld.byte.val ∧ sets i = some (t, fld, v) := by
  cases i <;> simp only [viewTarget, reduceCtorEq, Option.some.injEq] at h <;> subst h
  case getEnabled t => exact .inl ⟨.enabled, ⟨.setEnabled t 0, 0, rfl⟩, by decide, rfl⟩
  case getMode t => exact .inl ⟨.mode, ⟨.setMode t 0, 0, rfl⟩, by decide, rfl⟩
  case getFan t => exact .inl ⟨.fan, ⟨.setFan t 0, 0, rfl⟩, by decide, rfl⟩
  case getError t => exact .inl ⟨.error, ⟨.setError t 0, 0, rfl⟩, by decide, rfl⟩
  case getTemp t => exact .inl ⟨.temperature, ⟨.setTemp t 0, 0, rfl⟩, by decide, rfl⟩
  case getEconomy t => exact .inl ⟨.economy, ⟨.setEconomy t 0, 0, rfl⟩, by decide, rfl⟩
  case getMagic t => exact .inl ⟨.updateMagic, ⟨.setMagic t 0, 0, rfl⟩, by decide, rfl⟩
  case getSwing t => exact .inl ⟨.swing, ⟨.setSwing t 0, 0, rfl⟩, by decide, rfl⟩
  case getSwingStep t => exact .inl ⟨.swingStep, ⟨.setSwingStep t 0, 0, rfl⟩, by decide, rfl⟩
  case getPresent t => exact .inl ⟨.present, ⟨.setPresent t 0, 0, rfl⟩, by decide, rfl⟩
  all_goals exact .inr ⟨_, _, by decide, rfl⟩

section
variable {p : Params} {fld : Field} {f g : Frame}

/-- A payload field is read from the payload. -/
theorem getField_of_samePayload (hbyte : 3 ≤ fld.byte.val) (h : SamePayload f g) :
    getField (fld.pos p) f = getField (fld.pos p) g := by
  refine getField_congr fun k j _ ⟨hk, _⟩ => ?_
  rw [h k (hk ▸ hbyte)]

/-- A put into a payload field keeps the header bytes. -/
theorem putField_getElem_header (hbyte : 3 ≤ fld.byte.val) (v : Byte) (f : Frame) {k : Fin 8}
    (hk : k.val < 3) : (putField (fld.pos p) v f)[k] = f[k] := by
  have hne : k ≠ (fld.pos p).byte := fun h => by
    have : k.val = fld.byte.val := congrArg Fin.val h
    omega
  exact (putField_getElem _ v f k).trans (if_neg hne)

/-- A put into a field leaves equal payloads equal. -/
theorem SamePayload.putField (h : SamePayload f g) (fp : FieldPos) (v : Byte) :
    SamePayload (putField fp v f) (putField fp v g) := by
  intro k hk
  rw [putField_getElem, putField_getElem]
  split
  · next he =>
    subst he
    rw [h _ hk]
  · exact h k hk

end

/-- A frame written back is no change. -/
theorem withFrame_self {s : State} {t : Target} {f : Frame} (hf : s.frameOf t = some f) : s.withFrame t f = s := by
  cases t with
  | master => exact congrArg (fun mf => { s with mf := mf }) hf.symm
  | controller => exact congrArg (fun cf => { s with cf := cf }) hf.symm

/-- A getter of a payload field works on the payload: it reads the field and writes nothing. -/
theorem onPayload_getter {t : Target} {fld : Field} (hfld : HasField t fld) (hbyte : 3 ≤ fld.byte.val) :
    OnPayload (fld.getter t) t := by
  refine ⟨fun _ f => f, fun p f => { d8 := shown fld (getField (fld.pos p) f) }, fun _ _ _ _ => rfl,
    fun p f g h => ⟨?_, h⟩, fun s => ?_⟩
  · exact congrArg (fun raw => ({ d8 := shown fld raw } : Response)) (getField_of_samePayload hbyte h)
  · rw [exec_getter hfld, readD8]
    cases hf : s.frameOf t with
    | none => rw [needFrame_none hf, needFrame_none hf]
    | some f => rw [needFrame_some hf, needFrame_some hf, withFrame_self hf]

/-- A setter of a payload field refuses its immediate, or works on the payload. -/
theorem illegal_or_onPayload_setter {i : Instr} {t : Target} {fld : Field} {v : Byte}
    (hset : sets i = some (t, fld, v)) (hbyte : 3 ≤ fld.byte.val) :
    (¬ fld.Legal v ∧ ∀ s, exec i s = .next (s.answer { status := .illegalOperand })) ∨ OnPayload i t := by
  obtain ⟨legal, hl, hexec⟩ := exec_setter hset
  cases legal with
  | false => exact .inl ⟨by simpa using hl, hexec⟩
  | true =>
    exact .inr ⟨fun p => putField (fld.pos p) v, fun _ _ => {},
      fun _ f _ => putField_getElem_header hbyte v f, fun _ _ _ h => ⟨rfl, h.putField _ v⟩, hexec⟩

/-- All a status-view command can be. -/
theorem view_cases {i : Instr} {t : Target} (h : viewTarget i = some t) :
    (∃ fld v, sets i = some (t, fld, v) ∧ ¬ fld.Legal v ∧
      ∀ s, exec i s = .next (s.answer { status := .illegalOperand })) ∨ OnPayload i t := by
  obtain ⟨fld, hfld, hbyte, rfl⟩ | ⟨fld, v, hbyte, hset⟩ := view_kinds h
  · exact .inr (onPayload_getter hfld hbyte)
  · exact (illegal_or_onPayload_setter hset hbyte).imp_left fun hill => ⟨fld, v, hset, hill⟩

/-- Settles O27: a refused immediate writes the response alone; the others check, edit and answer from the
selected frame. -/
theorem viewCommandsUseOnlyTheSelectedFrame : Obligations.ViewCommandsUseOnlyTheSelectedFrame := by
  intro i t hview s
  obtain ⟨fld, v, hset, hill, hexec⟩ | ⟨edit, resp, hheader, -, hexec⟩ := view_cases hview
  · refine ⟨fun hlegal => absurd (hlegal t fld v hset) hill, _, hexec s, fun _ _ => by simp,
      fun f f' hf hf' k _ => ?_, fun t' g _ => ?_⟩
    · obtain rfl : f = f' := by simpa [hf] using hf'
      rfl
    · rw [hexec, State.answer_withFrame]
  · refine ⟨fun _ hnone => by rw [hexec, needFrame_none hnone]; rfl, ?_⟩
    have hother {t' : Target} (ht : t' ≠ t) (g : Frame) : (s.withFrame t' g).frameOf t = s.frameOf t :=
      State.withFrame_frameOf_other s g ht.symm
    cases hf : s.frameOf t with
    | none =>
      refine ⟨_, (hexec s).trans (needFrame_none hf _), fun _ _ => by simp, (fun _ _ h => nomatch h),
        fun t' g ht => ?_⟩
      rw [hexec, needFrame_none ((hother ht g).trans hf), raise_eq, State.answer_withFrame]
    | some f =>
      refine ⟨_, (hexec s).trans (needFrame_some hf _),
        fun t' ht => by simp [State.withFrame_frameOf_other s _ ht], fun f₀ f' h h' k hk => ?_, fun t' g ht => ?_⟩
      · obtain rfl : f = f₀ := Option.some.inj h
        obtain rfl : edit s.params f = f' := by simpa using h'
        exact hheader s.params f k hk
      · rw [hexec, needFrame_some ((hother ht g).trans hf), State.withFrame_params, State.answer_withFrame,
          State.withFrame_comm s g ht.symm]

/-- Settles O28: the answer and the payload afterwards come from the payload. -/
theorem viewIgnoresTheRegisterType : Obligations.ViewIgnoresTheRegisterType := by
  intro i t s f g hview hfg
  obtain ⟨fld, v, -, -, hexec⟩ | ⟨edit, resp, -, hsame, hexec⟩ := view_cases hview
  · exact ⟨_, _, f, g, hexec _, hexec _, rfl, by simp, by simp, hfg⟩
  · have hrun (f₀ : Frame) : exec i (s.withFrame t f₀) =
        .next ((s.withFrame t (edit s.params f₀)).answer (resp s.params f₀)) := by
      rw [hexec, needFrame_some (State.withFrame_frameOf s t f₀), State.withFrame_params,
        State.withFrame_withFrame]
    obtain ⟨hresp, hpayload⟩ := hsame s.params f g hfg
    exact ⟨_, _, _, _, hrun f, hrun g, congrArg some hresp, by simp, by simp, hpayload⟩

end Sys2Proof.StatusView

/-! PROOFS of the statements of 60_exceptions.md: which status a command ends with (R302 to R305), what a
failed command leaves (R301), what no frame content does (R306), and the step without a command (R311). -/

namespace Sys2Proof.Exceptions

open Machine Rules Scope BlockState Encoding

/-- Settles O10: with nothing presented, a step under legal parameters is `idle`. -/
theorem idleStepKeepsTheBlock : Obligations.IdleStepKeepsTheBlock := fun _ => step_idle

/-! ### The two checks of a decoded command (R303, R304) -/

/-- The operand check passes: a field setter's immediate lies in its legal set (R303). -/
def OperandLegal (i : Instr) : Prop := ∀ t fld v, sets i = some (t, fld, v) → Field.Legal v fld

/-- The frame check fails: the command needs a frame register whose validity bit is 0 (R304). -/
def FrameAbsent (i : Instr) (s : State) : Prop := ∃ t, needs i = some t ∧ s.frameOf t = none

section
variable {i : Instr} {t : Target} {fld : Field} {v : Byte} {s : State}

theorem operandLegal_iff_of_sets (h : sets i = some (t, fld, v)) : OperandLegal i ↔ fld.Legal v := by
  simp [OperandLegal, h]

theorem operandLegal_of_sets_none (h : sets i = none) : OperandLegal i := by
  simp [OperandLegal, h]

theorem not_operandLegal_iff :
    ¬ OperandLegal i ↔ ∃ t fld v, sets i = some (t, fld, v) ∧ ¬ Field.Legal v fld := by
  simp [OperandLegal]

theorem frameAbsent_iff_of_needs (h : needs i = some t) : FrameAbsent i s ↔ s.frameOf t = none := by
  simp [FrameAbsent, h]

theorem not_frameAbsent_of_needs_none (h : needs i = none) : ¬ FrameAbsent i s := by
  simp [FrameAbsent, h]

theorem not_frameAbsent_iff : ¬ FrameAbsent i s ↔ ∀ t, needs i = some t → s.frameOf t ≠ none := by
  simp [FrameAbsent]

/-- The frame check, by the two validity bits (R22, R23). -/
theorem frameAbsent_iff_valid : FrameAbsent i s ↔
    (needs i = some .master ∧ s.mfValid = false) ∨ (needs i = some .controller ∧ s.cfValid = false) := by
  simp only [State.mfValid, State.cfValid, Option.isSome_eq_false_iff, Option.isNone_iff_eq_none]
  constructor
  · rintro ⟨_ | _, hneed, hf⟩
    · exact .inl ⟨hneed, hf⟩
    · exact .inr ⟨hneed, hf⟩
  · rintro (⟨hneed, hf⟩ | ⟨hneed, hf⟩)
    · exact ⟨.master, hneed, hf⟩
    · exact ⟨.controller, hneed, hf⟩

/-- The port and the waiting inputs have no part in the frame check. -/
theorem frameAbsent_present (d : DataWord) (rest : List Input) :
    FrameAbsent i (present d rest s) ↔ FrameAbsent i s := by
  simp only [FrameAbsent, present_frameOf]

theorem sets_of_readsOnly (h : readsOnly i = some t) : sets i = none := by
  cases i <;> simp [readsOnly, sets] at h ⊢

theorem needs_of_readsOnly (h : readsOnly i = some t) : needs i = some t := by
  simp [needs, h]

theorem needs_of_sets (h : sets i = some (t, fld, v)) : needs i = some t := by
  have hreads : readsOnly i = none := by
    cases hr : readsOnly i with
    | none => rfl
    | some t' => simp [sets_of_readsOnly hr] at h
  simp [needs, hreads, h]

end

/-! ### The one status of a command (R305) -/

/-- When a decoded command ends with the status: the operand is checked first, then the frame. -/
def Verdict (i : Instr) (s : State) : Status → Prop
  | .ok => OperandLegal i ∧ ¬ FrameAbsent i s
  | .illegalCommand => False
  | .illegalOperand => ¬ OperandLegal i
  | .noFrame => OperandLegal i ∧ FrameAbsent i s

/-- Exactly one cause applies. -/
theorem exists_verdict_iff_eq (i : Instr) (s : State) : ∃ st₀, ∀ st, Verdict i s st ↔ st = st₀ := by
  by_cases hlegal : OperandLegal i
  · by_cases hframe : FrameAbsent i s
    · exact ⟨.noFrame, fun st => by cases st <;> simp [Verdict, hlegal, hframe]⟩
    · exact ⟨.ok, fun st => by cases st <;> simp [Verdict, hlegal, hframe]⟩
  · exact ⟨.illegalOperand, fun st => by cases st <;> simp [Verdict, hlegal]⟩

/-- So a command has a status exactly when that status's cause applies. -/
theorem Verdict.eq_iff {i : Instr} {s : State} {st : Status} (h : Verdict i s st) (st' : Status) :
    st = st' ↔ Verdict i s st' := by
  obtain ⟨st₀, h₀⟩ := exists_verdict_iff_eq i s
  obtain rfl := (h₀ st).1 h
  rw [h₀, eq_comm]

/-- An outcome of a command on `s` with a response whose status meets `P`; with a status other than OK the
response is all that was written, and it carries nothing but that status (R301). -/
def Ends (P : Status → Prop) (s : State) (out : Result) : Prop :=
  ∃ u r, out = .next u ∧ u.response = some r ∧ P r.status ∧
    (r.status ≠ .ok → r = { status := r.status } ∧ u = s.answer r)

theorem Ends.of_raise {P : Status → Prop} {s : State} {st : Status} (h : P st) : Ends P s (raise st s) :=
  ⟨_, _, raise_eq st s, rfl, h, fun _ => ⟨rfl, rfl⟩⟩

theorem Ends.of_ok {P : Status → Prop} {s u : State} {r : Response} (hr : u.response = some r)
    (hok : r.status = .ok) (h : P .ok) : Ends P s (.next u) :=
  ⟨u, r, rfl, hr, hok ▸ h, fun hne => absurd hok hne⟩

/-- Behind a passed operand check, a command that is OK on every frame ends as its frame check has it (R304). -/
theorem needFrame_ends {i : Instr} {t : Target} {s : State} {k : Frame → Result} (hlegal : OperandLegal i)
    (hneed : needs i = some t)
    (hk : ∀ f, ∃ u r, k f = .next u ∧ u.response = some r ∧ r.status = .ok) :
    Ends (Verdict i s) s (needFrame t s k) := by
  cases hf : s.frameOf t with
  | none =>
    rw [needFrame_none hf]
    exact .of_raise ⟨hlegal, (frameAbsent_iff_of_needs hneed).2 hf⟩
  | some f =>
    obtain ⟨u, r, hu, hr, hok⟩ := hk f
    rw [needFrame_some hf, hu]
    exact .of_ok hr hok ⟨hlegal, by simp [frameAbsent_iff_of_needs hneed, hf]⟩

/-- A constructor checks nothing. -/
theorem construct_ends {i : Instr} {s : State} (hset : sets i = none) (hneed : needs i = none) (t : Target)
    (f : Frame) : Ends (Verdict i s) s (construct t f s) :=
  .of_ok (r := {}) rfl rfl ⟨operandLegal_of_sets_none hset, not_frameAbsent_of_needs_none hneed⟩

/-- Every decoded command ends with the status that the checks give, in their order. -/
theorem exec_ends (i : Instr) (s : State) : Ends (Verdict i s) s (exec i s) := by
  obtain ⟨t, hread⟩ | ⟨t, fld, v, hset⟩ | rfl | rfl | rfl | rfl := instr_kinds i
  · obtain ⟨g, hg, -, hexec⟩ := exec_reader hread
    rw [hexec]
    exact needFrame_ends (operandLegal_of_sets_none (sets_of_readsOnly hread)) (needs_of_readsOnly hread)
      fun f => ⟨_, _, rfl, rfl, (hg s.params s.din64 f).1⟩
  · obtain ⟨legal, hl, hexec⟩ := exec_setter hset
    rw [hexec]
    have hlegal := operandLegal_iff_of_sets hset
    cases legal with
    | false => exact .of_raise fun h => by simpa using hl.2 (hlegal.1 h)
    | true => exact needFrame_ends (hlegal.2 (hl.1 rfl)) (needs_of_sets hset) fun f => ⟨_, {}, rfl, rfl, rfl⟩
  · exact construct_ends rfl rfl .master _
  · exact construct_ends rfl rfl .controller _
  · exact construct_ends rfl rfl .controller _
  · exact needFrame_ends (operandLegal_of_sets_none rfl) rfl fun f => ⟨_, {}, rfl, rfl, rfl⟩

/-- When a command word ends with the status: decoding comes before the checks of the command. -/
def WordVerdict (w : CmdWord) (s : State) (st : Status) : Prop :=
  ((∀ i, decode w ≠ .ok i) → st = .illegalCommand) ∧ ∀ i, decode w = .ok i → Verdict i s st

/-- Only a word that does not decode ends with ILLEGAL_COMMAND. -/
theorem WordVerdict.illegalCommand_iff {w : CmdWord} {s : State} {st : Status} (h : WordVerdict w s st) :
    st = .illegalCommand ↔ ∀ i, decode w ≠ .ok i := by
  obtain ⟨hillegal, hverdict⟩ := h
  exact ⟨fun hst i hd => ((hverdict i hd).eq_iff .illegalCommand).1 hst, hillegal⟩

/-- Every step on a command ends with the status of R305. -/
theorem step_ends {s : State} (hp : LegalParams s.params) {w : CmdWord} {d : DataWord} {rest : List Input}
    (hin : s.inputs = .command w d :: rest) :
    Ends (WordVerdict w (present d rest s)) (present d rest s) (step s) := by
  rw [step_command hp hin, runCommand]
  cases hd : decode w with
  | ok i =>
    obtain ⟨u, r, hu, hr, hverdict, hfail⟩ := exec_ends i (present d rest s)
    refine ⟨u, r, hu, hr, ⟨fun h => absurd hd (h i), fun j hj => ?_⟩, hfail⟩
    obtain rfl : i = j := by simpa [hd] using hj
    exact hverdict
  | error e => exact .of_raise ⟨fun _ => rfl, fun i hi => by simp [hd] at hi⟩

/-- Settles O15: ILLEGAL_OPERAND is the verdict of the operand check. -/
theorem illegalOperandExactlyOutsideTheLegalSet : Obligations.IllegalOperandExactlyOutsideTheLegalSet := by
  intro i s
  obtain ⟨u, r, hu, hr, hverdict, -⟩ := exec_ends i s
  exact ⟨u, r, hu, hr, (hverdict.eq_iff .illegalOperand).trans not_operandLegal_iff⟩

/-- Settles O16: NO_FRAME is the verdict of the frame check. -/
theorem noFrameExactlyWhenTheFrameIsAbsent : Obligations.NoFrameExactlyWhenTheFrameIsAbsent := by
  intro i s
  obtain ⟨u, r, hu, hr, hverdict, -⟩ := exec_ends i s
  exact ⟨u, r, hu, hr, (hverdict.eq_iff .noFrame).trans (and_congr_right fun _ => frameAbsent_iff_valid)⟩

/-- Settles O17: the verdicts on a word, one after the other. -/
theorem errorsAreCheckedInOrder : Obligations.ErrorsAreCheckedInOrder := by
  intro s w d rest hp hin
  obtain ⟨u, r, hu, hr, ⟨hillegal, hverdict⟩, -⟩ := step_ends hp hin
  refine ⟨u, r, hu, hr, hillegal, fun i hd => ?_⟩
  have hstatus := (hverdict i hd).eq_iff
  refine ⟨fun hout => ?_, fun hlegal => ⟨fun habsent => ?_, fun hframe => ?_⟩⟩
  · exact (hstatus .illegalOperand).2 (not_operandLegal_iff.2 hout)
  · exact (hstatus .noFrame).2 ⟨hlegal, (frameAbsent_present d rest).2 habsent⟩
  · exact (hstatus .ok).2 ⟨hlegal, mt (frameAbsent_present d rest).1 (not_frameAbsent_iff.2 hframe)⟩

/-- Settles O19: a reader checks no operand, and its frame is there. -/
theorem wireContentNeverCausesAnError : Obligations.WireContentNeverCausesAnError := by
  intro i t s f hread hf
  obtain ⟨u, r, hu, hr, hverdict, -⟩ := exec_ends i s
  have hpresent : ¬ FrameAbsent i s := by simp [frameAbsent_iff_of_needs (needs_of_readsOnly hread), hf]
  exact ⟨u, r, hu, hr,
    (hverdict.eq_iff .ok).2 ⟨operandLegal_of_sets_none (sets_of_readsOnly hread), hpresent⟩⟩

/-! ### A failed command (R301) -/

/-- A command runs the same whatever data, inputs and response the command before it left. -/
theorem step_command_after_answer {s : State} (hp : LegalParams s.params) (d : DataWord) (rest : List Input)
    (r : Response) (w' : CmdWord) (d' : DataWord) (rest' : List Input) :
    step { (present d rest s).answer r with inputs := .command w' d' :: rest' } =
      step { s with inputs := .command w' d' :: rest' } := by
  rw [step_command (s := { (present d rest s).answer r with inputs := .command w' d' :: rest' }) hp rfl,
    step_command (s := { s with inputs := .command w' d' :: rest' }) hp rfl]
  exact runCommand_withResponse (present d' rest' s) (some r) w'

/-- Settles O18: the failed command wrote its status alone, which the next command does not read. -/
theorem failedCommandLeavesNoTrace : Obligations.FailedCommandLeavesNoTrace := by
  intro s u w d rest r hin hstep hresp hfailed
  obtain ⟨hp, -⟩ := step_effect hstep
  obtain ⟨u', r', hu', hr', -, hfail⟩ := step_ends hp hin
  obtain rfl : u = u' := by simpa [hstep] using hu'
  obtain rfl : r = r' := by simpa [hresp] using hr'
  obtain ⟨hstatus, rfl⟩ := hfail hfailed
  exact ⟨rfl, rfl, rfl, rfl, rfl, by rw [hstatus], by rw [hstatus], by rw [hstatus],
    step_command_after_answer hp d rest r⟩

/-! ### The illegal words (R302) -/

/-- The opcodes without a row (R302, first case). -/
def unassignedOps : List Nat := [0x00, 0x0B, 0x0C, 0x0D, 0x0E, 0x0F, 0x1C, 0x1D, 0x1E, 0x1F,
  0x34, 0x35, 0x36, 0x37, 0x38, 0x39, 0x3A, 0x3B, 0x3C, 0x3D, 0x3E, 0x3F]

/-- The opcodes of the commands that take no immediate (R302, fourth case). -/
def opsWithoutImmediate : List Nat := [0x01, 0x02, 0x03, 0x04, 0x05, 0x07, 0x09,
  0x10, 0x11, 0x12, 0x13, 0x14, 0x15, 0x16, 0x18, 0x1A,
  0x20, 0x22, 0x24, 0x26, 0x28, 0x2A, 0x2C, 0x2E, 0x30, 0x32]

/-- Whether a row of the shape reads the target from bit 7. -/
def takesTarget : Shape → Bool
  | .frame _ | .frameImm _ => false
  | .viewGet _ | .viewSet _ => true

/-- Whether a row of the shape reads the immediate from bits 15:8. -/
def takesImm : Shape → Bool
  | .frame _ | .viewGet _ => false
  | .frameImm _ | .viewSet _ => true

/-- The opcode map, as R302 lists it: a frame command has OP ≤ 0x1B. -/
theorem shapeOf_map : ∀ n < 64, (shapeOf n).map (fun sh => (takesTarget sh, takesImm sh)) =
    if n ∈ unassignedOps then none else some (decide (0x1B < n), decide (n ∉ opsWithoutImmediate)) := by decide

/-- A row accepts a word exactly when the third and the fourth case of R302 do not apply. -/
theorem acceptedBy_iff (w : CmdWord) (sh : Shape) : AcceptedBy w sh ↔
    ¬ (tField w = true ∧ takesTarget sh = false) ∧ ¬ (immField w ≠ 0 ∧ takesImm sh = false) := by
  cases sh <;> simp [AcceptedBy, takesTarget, takesImm]

/-- The words that decode: RSV = 0, and the opcode has a row that accepts the other fields. -/
theorem exists_decode_iff (w : CmdWord) : (∃ i, decode w = .ok i) ↔
    rsvField w = false ∧ ∃ sh, shapeOf (opField w).toNat = some sh ∧ AcceptedBy w sh := by
  constructor
  · rintro ⟨i, hd⟩
    obtain ⟨sh, hsh, hacc, -⟩ := exists_shape_encode i
    have hrsv := rsvField_encode i
    rw [encode_of_decode hd] at hsh hacc hrsv
    exact ⟨hrsv, sh, hsh, hacc⟩
  · rintro ⟨hrsv, sh, hsh, hacc⟩
    exact ⟨_, decode_of_accepted hrsv hsh hacc⟩

/-- The four cases of R302. -/
def IllegalByFields (w : CmdWord) : Prop :=
  (opField w).toNat ∈ unassignedOps ∨ rsvField w = true ∨
    (tField w = true ∧ (opField w).toNat ≤ 0x1B) ∨
    (immField w ≠ 0 ∧ (opField w).toNat ∈ opsWithoutImmediate)

/-- A word does not decode exactly when one of the four cases applies. -/
theorem forall_decode_ne_iff (w : CmdWord) : (∀ i, decode w ≠ .ok i) ↔ IllegalByFields w := by
  have hmap := shapeOf_map (opField w).toNat (opField w).isLt
  rw [← not_exists, exists_decode_iff, IllegalByFields]
  cases hsh : shapeOf (opField w).toNat with
  | none =>
    have hop : (opField w).toNat ∈ unassignedOps := by simpa [hsh] using hmap
    simp [hop]
  | some sh =>
    obtain ⟨hop, ht, himm⟩ : (opField w).toNat ∉ unassignedOps ∧
        takesTarget sh = decide (0x1B < (opField w).toNat) ∧
        takesImm sh = decide ((opField w).toNat ∉ opsWithoutImmediate) := by
      simpa [hsh, eq_comm] using hmap
    have ht' : takesTarget sh = false ↔ (opField w).toNat ≤ 0x1B := by simp [ht]
    have himm' : takesImm sh = false ↔ (opField w).toNat ∈ opsWithoutImmediate := by simp [himm]
    simp only [Option.some.injEq, exists_eq_left', acceptedBy_iff, ht', himm', hop, false_or]
    rw [not_and_or, not_and_or, not_not, not_not, Bool.not_eq_false]

/-- A word does not decode exactly when it selects no row (R75). -/
theorem forall_decode_ne_iff_rows (w : CmdWord) :
    (∀ i, decode w ≠ .ok i) ↔ ∀ row ∈ opcodeRows, w &&& row.mask ≠ row.value := by
  obtain ⟨hrow, -, -⟩ := decoderFollowsTheOpcodeTable w
  simpa using not_congr hrow

/-- Settles O14: ILLEGAL_COMMAND is the verdict on a word that does not decode, in the two forms of R302. -/
theorem illegalCommandExactlyWhenNoRowMatches : Obligations.IllegalCommandExactlyWhenNoRowMatches := by
  intro s w d rest hp hin
  obtain ⟨u, r, hu, hr, hverdict, -⟩ := step_ends hp hin
  exact ⟨u, r, hu, hr, hverdict.illegalCommand_iff.trans (forall_decode_ne_iff_rows w),
    hverdict.illegalCommand_iff.trans (forall_decode_ne_iff w)⟩

end Sys2Proof.Exceptions

/-! PROOF of the statement of 70_reset_and_hazards.md: what the reset event does to the block (R330), and
the state after reset (10_state.md R33). -/

namespace Sys2Proof.ResetEvent

open Machine Scope

/-- R33: MF_VALID is 0 exactly while the master frame holds no value. -/
theorem mfValid_eq_false_iff {s : State} : s.mfValid = false ↔ s.mf = none :=
  Option.isSome_eq_false_iff.trans Option.isNone_iff_eq_none

/-- R33: CF_VALID is 0 exactly while the controller frame holds no value. -/
theorem cfValid_eq_false_iff {s : State} : s.cfValid = false ↔ s.cf = none :=
  Option.isSome_eq_false_iff.trans Option.isNone_iff_eq_none

/-- The reset event leaves both frames absent (R330) and the parameters as they were built (R332). -/
theorem takeReset_clears (rest : List Input) (s : State) :
    ∃ u, takeReset rest s = .next u ∧ u.mf = none ∧ u.cf = none ∧ u.params = s.params :=
  ⟨_, rfl, rfl, rfl, rfl⟩

/-- Settles O9: under legal parameters the step takes the reset event, which leaves no frame, and a frame
register that holds no value is not valid. -/
theorem resetClearsBothFrames : Obligations.ResetClearsBothFrames := by
  refine ⟨fun s rest hp hin => ?_, mfValid_eq_false_iff.2 reset_mf, cfValid_eq_false_iff.2 reset_cf,
    reset_mf, reset_cf⟩
  obtain ⟨u, htake, hmf, hcf, hparams⟩ := takeReset_clears rest s
  exact ⟨u, (step_reset hp hin).trans htake, mfValid_eq_false_iff.2 hmf, cfValid_eq_false_iff.2 hcf,
    hmf, hcf, hparams⟩

end Sys2Proof.ResetEvent
